-- ==== Sys2Proof/Word.lean ====
section
/-! DEFINITION. The word types of MOE-BAU, and the fault codes a command can end in. -/

namespace Sys2Proof

/-- A byte of BUF (20_memory.md R55). -/
abbrev Byte := BitVec 8

/-- A byte string, byte 0 first (00_scope.md R16). -/
abbrev Bytes := List Byte

/-- A host register or CSR (00_scope.md R15). -/
abbrev Word32 := BitVec 32

/-- A command word (30_encoding.md R73). -/
abbrev Word64 := BitVec 64

/-- A cipher block read as the integer `be(block)` (00_scope.md R17, R18). A block of 8 bytes uses the
low 64 bits, the others being 0. -/
abbrev Block := BitVec 128

/-- The number of a big register, b0 to b15 (30_encoding.md R74). -/
abbrev Reg := Fin 16

/-- A byte address of the host space (20_memory.md R61). -/
abbrev HostAddr := BitVec 17

/-- The sixteen faults of 60_exceptions.md R177. -/
inductive FaultCode where
  | illegalOpcode
  | reservedField
  | illegalCsr
  | bufBounds
  | regUninit
  | sequence
  | badConfig
  | badNonce
  | length
  | padding
  | authFail
  | cipherFail
  | divZero
  | underflow
  | capacity
  | operandRange
  deriving DecidableEq, Repr

end Sys2Proof
end

