-- ==== Sys2Proof/Config.lean ====
section
/-! DEFINITION. What an implementation of MOE-BAU fixes: the size parameters of 00_scope.md section 3, and
the block-cipher collaborator, which the spec leaves open. -/

namespace Sys2Proof

/-- The block-cipher collaborator (10_state.md R52, 00_scope.md R8): the block size, 16 bytes if `wide` and 8 if
not, and the two block functions, each a block or a failure. Blocks are integers `be(block)`; the operations
`Cipher.E` and `Cipher.D` of Machine/Ops.lean cut the results to the block size. -/
structure Cipher where
  /-- The block size is 16 bytes, not 8. -/
  wide : Bool
  /-- Encrypt one block, or fail. -/
  enc : Block → Option Block
  /-- Decrypt one block, or fail. -/
  dec : Block → Option Block
  deriving Inhabited

/-- BS, the block size in bytes: 8 or 16 (R8, D4). -/
def Cipher.bs (C : Cipher) : Nat := if C.wide then 16 else 8

/-- The collaborator this machine is attached to. It has no body: whatever is proved of the machine holds for
every block size and every pair of functions (R8, R53, D4; log 3). -/
opaque Config.cipher : Cipher

/-- W, the width of a big-register word in bits (R9). -/
def Config.W : Nat := 64

/-- MAXW, the most words a big register holds (R10). -/
def Config.MAXW : Nat := 64

/-- BUF_BYTES, the size of BUF (R12). -/
def Config.BUF_BYTES : Nat := 4096

/-- log2 of BUF_BYTES, as PARAM shows it (10_state.md R31). -/
def Config.BUF_LOG2 : Nat := 12

/-- CQ_DEPTH, the depth of the command queue (R13). -/
def Config.CQ_DEPTH : Nat := 16

/-- The version PARAM shows (10_state.md R31). -/
def Config.VERSION : Nat := 1

/-- The constant of the ID register (10_state.md R30). -/
def Config.ID : Word32 := 0x43534D45#32

/-- 2^(W·MAXW): a big register holds values below it (R10, 41_biguint_data.md R97). -/
def Config.CAPACITY : Nat := 2 ^ (Config.W * Config.MAXW)

end Sys2Proof
end

