-- ==== Sys2Proof/Syntax.lean ====
section
/-! DEFINITION. The commands of MOE-BAU, one constructor per row of the opcode table (30_encoding.md R83), with the
operands of R86. Addresses, lengths, indices and shift amounts are unsigned integers (R74). -/

namespace Sys2Proof

/-- A command (30_encoding.md R83, R86). -/
inductive Instr where
  /-- 0x00 NOP (40_control.md R93). -/
  | nop
  /-- 0x01 WCSR csr, imm32 (R94). -/
  | wcsr (csr : Nat) (imm : Word32)
  /-- 0x10 MINIT A, L (44_mode_session.md R129). -/
  | minit (a l : Nat)
  /-- 0x11 MAAD A, L (R130). -/
  | maad (a l : Nat)
  /-- 0x12 MPROC A, B, L (R131). -/
  | mproc (a b l : Nat)
  /-- 0x13 MFINAL A, B, L (R132). -/
  | mfinal (a b l : Nat)
  /-- 0x14 MRESET (R133). -/
  | mreset
  /-- 0x20 BLDI rd, imm48 (41_biguint_data.md R100). -/
  | bldi (rd : Reg) (imm : Nat)
  /-- 0x21 BLD r, A, L (R101). -/
  | bld (r : Reg) (a l : Nat)
  /-- 0x22 BST r, A, L (R102). -/
  | bst (r : Reg) (a l : Nat)
  /-- 0x23 BMOV rd, rs1 (R103). -/
  | bmov (rd rs1 : Reg)
  /-- 0x24 BGETW rd, rs1, idx (R104). -/
  | bgetw (rd rs1 : Reg) (idx : Nat)
  /-- 0x25 BSETW rd, rs1, idx (R105). -/
  | bsetw (rd rs1 : Reg) (idx : Nat)
  /-- 0x30 BADD rd, rs1, rs2 (42_biguint_arith.md R106). -/
  | badd (rd rs1 rs2 : Reg)
  /-- 0x31 BSUB rd, rs1, rs2 (R107). -/
  | bsub (rd rs1 rs2 : Reg)
  /-- 0x32 BMULW rd, rs1, rs2 (R108). -/
  | bmulw (rd rs1 rs2 : Reg)
  /-- 0x33 BMUL rd, rs1, rs2 (R109). -/
  | bmul (rd rs1 rs2 : Reg)
  /-- 0x34 BDIV rd, rs1, rs2, rs3 (R110). -/
  | bdiv (rd rs1 rs2 rs3 : Reg)
  /-- 0x35 BSHL rd, rs1, n (R111). -/
  | bshl (rd rs1 : Reg) (n : Nat)
  /-- 0x36 BSHR rd, rs1, n (R112). -/
  | bshr (rd rs1 : Reg) (n : Nat)
  /-- 0x37 BAND rd, rs1, rs2 (R113). -/
  | band (rd rs1 rs2 : Reg)
  /-- 0x38 BOR rd, rs1, rs2 (R114). -/
  | bor (rd rs1 rs2 : Reg)
  /-- 0x39 BXOR rd, rs1, rs2 (R115). -/
  | bxor (rd rs1 rs2 : Reg)
  /-- 0x3A BCMP rs1, rs2 (R116). -/
  | bcmp (rs1 rs2 : Reg)
  /-- 0x40 BPOW rd, rs1, rs2, rs3 (43_biguint_modular.md R117). -/
  | bpow (rd rs1 rs2 rs3 : Reg)
  /-- 0x41 BGCD rd, rs1, rs2 (R118). -/
  | bgcd (rd rs1 rs2 : Reg)
  /-- 0x42 BINV rd, rs1, rs2 (R119). -/
  | binv (rd rs1 rs2 : Reg)
  /-- 0x43 BSPRP rs1, rs2 (R120). -/
  | bsprp (rs1 rs2 : Reg)
  deriving DecidableEq, Repr

end Sys2Proof
end

