-- ==== Sys2Proof/WellFormed.lean ====
section
/-! DEFINITION. When the operands of a command fit the fields its format gives them (30_encoding.md R75 to R81). -/

namespace Sys2Proof

/-- `n` fits an unsigned field of `width` bits (30_encoding.md R74). -/
def fits (width n : Nat) : Bool := decide (n < 2 ^ width)

/-- Every operand fits its field: a CSR number has 8 bits (R76), a BUF address or length 16 (R77, R80), a word index or
shift amount 32 (R79), the immediate of BLDI 48 (R81). -/
def Instr.wellFormed : Instr → Bool
  | .wcsr csr _ => fits 8 csr
  | .minit a l => fits 16 a && fits 16 l
  | .maad a l => fits 16 a && fits 16 l
  | .mproc a b l => fits 16 a && fits 16 b && fits 16 l
  | .mfinal a b l => fits 16 a && fits 16 b && fits 16 l
  | .bldi _ imm => fits 48 imm
  | .bld _ a l => fits 16 a && fits 16 l
  | .bst _ a l => fits 16 a && fits 16 l
  | .bgetw _ _ idx => fits 32 idx
  | .bsetw _ _ idx => fits 32 idx
  | .bshl _ _ n => fits 32 n
  | .bshr _ _ n => fits 32 n
  | .nop | .mreset | .bmov _ _ | .badd _ _ _ | .bsub _ _ _ | .bmulw _ _ _ | .bmul _ _ _ | .bdiv _ _ _ _
  | .band _ _ _ | .bor _ _ _ | .bxor _ _ _ | .bcmp _ _ | .bpow _ _ _ _ | .bgcd _ _ _ | .binv _ _ _ | .bsprp _ _ => true

end Sys2Proof
end

