-- ==== Sys2Proof/Decode.lean ====
section
/-! DEFINITION. Decoding a command word, total and rejecting by name (30_encoding.md R85), and encoding a command from
the same formats (R75 to R83). -/

namespace Sys2Proof

/-- `w[hi:lo]`, the field of bits hi down to lo, as an unsigned number (00_scope.md R15). -/
def bits {n : Nat} (w : BitVec n) (hi lo : Nat) : Nat := w.toNat / 2 ^ lo % 2 ^ (hi + 1 - lo)

/-- The 4-bit register field whose lowest bit is `lo` (30_encoding.md R74). -/
def regField (w : Word64) (lo : Nat) : Reg := ⟨w.toNat / 2 ^ lo % 16, Nat.mod_lt _ (by decide)⟩

/-- A field that the format reserves is 0 (30_encoding.md section 2). -/
def zeroField (w : Word64) (hi lo : Nat) : Bool := bits w hi lo == 0

/-- Step 2 of R85: the command, if its reserved fields are 0. -/
def unlessReserved (reservedZero : Bool) (i : Instr) : Except FaultCode Instr :=
  if reservedZero then .ok i else .error .reservedField

/-- Formats with no operand but those of `i`: bits 63:8 are 0 (R75). -/
def decodeN (w : Word64) (i : Instr) : Except FaultCode Instr := unlessReserved (zeroField w 63 8) i

/-- Format M without an output: bits 15:8 and the B field are 0 (R77). -/
def decodeM (w : Word64) (mk : Nat → Nat → Instr) : Except FaultCode Instr :=
  unlessReserved (zeroField w 15 8 && zeroField w 47 32) (mk (bits w 31 16) (bits w 63 48))

/-- Format M with an output: bits 15:8 are 0 (R77). -/
def decodeMOut (w : Word64) (mk : Nat → Nat → Nat → Instr) : Except FaultCode Instr :=
  unlessReserved (zeroField w 15 8) (mk (bits w 31 16) (bits w 47 32) (bits w 63 48))

/-- Format RB (R80). -/
def decodeRB (w : Word64) (mk : Reg → Nat → Nat → Instr) : Except FaultCode Instr :=
  unlessReserved (zeroField w 15 12 && zeroField w 47 32) (mk (regField w 8) (bits w 31 16) (bits w 63 48))

/-- Format RI (R79). -/
def decodeRI (w : Word64) (mk : Reg → Reg → Nat → Instr) : Except FaultCode Instr :=
  unlessReserved (zeroField w 31 16) (mk (regField w 8) (regField w 12) (bits w 63 32))

/-- Format R with rd, rs1 and rs2 (R78, R82). -/
def decodeR3 (w : Word64) (mk : Reg → Reg → Reg → Instr) : Except FaultCode Instr :=
  unlessReserved (zeroField w 63 24 && zeroField w 23 20) (mk (regField w 8) (regField w 12) (regField w 16))

/-- Format R with all four registers (R78, R82). -/
def decodeR4 (w : Word64) (mk : Reg → Reg → Reg → Reg → Instr) : Except FaultCode Instr :=
  unlessReserved (zeroField w 63 24) (mk (regField w 8) (regField w 12) (regField w 16) (regField w 20))

/-- Format R with rs1 and rs2 only (R78, R82). -/
def decodeRCmp (w : Word64) (mk : Reg → Reg → Instr) : Except FaultCode Instr :=
  unlessReserved (zeroField w 63 24 && zeroField w 23 20 && zeroField w 11 8) (mk (regField w 12) (regField w 16))

/-- Decoding is a pure function of the word: the opcode of R83, or ILLEGAL_OPCODE (R84); then the format's reserved
fields, or RESERVED_FIELD (R85). -/
def decode (w : Word64) : Except FaultCode Instr :=
  match bits w 7 0 with
  | 0x00 => decodeN w .nop
  | 0x01 => unlessReserved (zeroField w 63 48) (.wcsr (bits w 15 8) (BitVec.ofNat 32 (bits w 47 16)))
  | 0x10 => decodeM w .minit
  | 0x11 => decodeM w .maad
  | 0x12 => decodeMOut w .mproc
  | 0x13 => decodeMOut w .mfinal
  | 0x14 => decodeN w .mreset
  | 0x20 => unlessReserved (zeroField w 15 12) (.bldi (regField w 8) (bits w 63 16))
  | 0x21 => decodeRB w .bld
  | 0x22 => decodeRB w .bst
  | 0x23 =>
    unlessReserved (zeroField w 63 24 && zeroField w 23 20 && zeroField w 19 16) (.bmov (regField w 8) (regField w 12))
  | 0x24 => decodeRI w .bgetw
  | 0x25 => decodeRI w .bsetw
  | 0x30 => decodeR3 w .badd
  | 0x31 => decodeR3 w .bsub
  | 0x32 => decodeR3 w .bmulw
  | 0x33 => decodeR3 w .bmul
  | 0x34 => decodeR4 w .bdiv
  | 0x35 => decodeRI w .bshl
  | 0x36 => decodeRI w .bshr
  | 0x37 => decodeR3 w .band
  | 0x38 => decodeR3 w .bor
  | 0x39 => decodeR3 w .bxor
  | 0x3A => decodeRCmp w .bcmp
  | 0x40 => decodeR4 w .bpow
  | 0x41 => decodeR3 w .bgcd
  | 0x42 => decodeR3 w .binv
  | 0x43 => decodeRCmp w .bsprp
  | _ => .error .illegalOpcode

/-- The opcode of a command (30_encoding.md R83). -/
def opcodeOf : Instr → Nat
  | .nop => 0x00
  | .wcsr _ _ => 0x01
  | .minit _ _ => 0x10
  | .maad _ _ => 0x11
  | .mproc _ _ _ => 0x12
  | .mfinal _ _ _ => 0x13
  | .mreset => 0x14
  | .bldi _ _ => 0x20
  | .bld _ _ _ => 0x21
  | .bst _ _ _ => 0x22
  | .bmov _ _ => 0x23
  | .bgetw _ _ _ => 0x24
  | .bsetw _ _ _ => 0x25
  | .badd _ _ _ => 0x30
  | .bsub _ _ _ => 0x31
  | .bmulw _ _ _ => 0x32
  | .bmul _ _ _ => 0x33
  | .bdiv _ _ _ _ => 0x34
  | .bshl _ _ _ => 0x35
  | .bshr _ _ _ => 0x36
  | .band _ _ _ => 0x37
  | .bor _ _ _ => 0x38
  | .bxor _ _ _ => 0x39
  | .bcmp _ _ => 0x3A
  | .bpow _ _ _ _ => 0x40
  | .bgcd _ _ _ => 0x41
  | .binv _ _ _ => 0x42
  | .bsprp _ _ => 0x43

/-- The operand fields of a command at their places in the word: rd in 11:8, rs1 in 15:12, rs2 in 19:16, rs3 in 23:20,
A in 31:16, B in 47:32, L in 63:48, and the immediates of R76, R79 and R81. -/
def operandFields : Instr → Nat
  | .nop | .mreset => 0
  | .wcsr csr imm => csr * 2 ^ 8 + imm.toNat * 2 ^ 16
  | .minit a l | .maad a l => a * 2 ^ 16 + l * 2 ^ 48
  | .mproc a b l | .mfinal a b l => a * 2 ^ 16 + b * 2 ^ 32 + l * 2 ^ 48
  | .bldi rd imm => rd.val * 2 ^ 8 + imm * 2 ^ 16
  | .bld r a l | .bst r a l => r.val * 2 ^ 8 + a * 2 ^ 16 + l * 2 ^ 48
  | .bmov rd rs1 => rd.val * 2 ^ 8 + rs1.val * 2 ^ 12
  | .bgetw rd rs1 n | .bsetw rd rs1 n | .bshl rd rs1 n | .bshr rd rs1 n =>
    rd.val * 2 ^ 8 + rs1.val * 2 ^ 12 + n * 2 ^ 32
  | .badd rd rs1 rs2 | .bsub rd rs1 rs2 | .bmulw rd rs1 rs2 | .bmul rd rs1 rs2 | .band rd rs1 rs2 | .bor rd rs1 rs2
  | .bxor rd rs1 rs2 | .bgcd rd rs1 rs2 | .binv rd rs1 rs2 =>
    rd.val * 2 ^ 8 + rs1.val * 2 ^ 12 + rs2.val * 2 ^ 16
  | .bdiv rd rs1 rs2 rs3 | .bpow rd rs1 rs2 rs3 =>
    rd.val * 2 ^ 8 + rs1.val * 2 ^ 12 + rs2.val * 2 ^ 16 + rs3.val * 2 ^ 20
  | .bcmp rs1 rs2 | .bsprp rs1 rs2 => rs1.val * 2 ^ 12 + rs2.val * 2 ^ 16

/-- The command word of a well-formed command (30_encoding.md R73, R83). -/
def encode (i : Instr) : Word64 := BitVec.ofNat 64 (opcodeOf i + operandFields i)

/-- The instruction the decoder reads from an instruction whose low `nbits` bits are `w`, the others 0. A command is one
64-bit word, pushed whole (R73), so no byte order enters. -/
def decodeTableWord (nbits w : Nat) : Option Instr :=
  match decode (BitVec.ofNat 64 (w % 2 ^ nbits)) with
  | .ok i => some i
  | .error _ => none

/-- The match and mask of each row of the opcode table (R85): a word is the row's command iff `w & mask = match`. -/
def opcodeRows : List (Word64 × Word64) :=
  [ (0x0000000000000000#64, 0xFFFFFFFFFFFFFFFF#64), (0x0000000000000001#64, 0xFFFF0000000000FF#64),
    (0x0000000000000010#64, 0x0000FFFF0000FFFF#64), (0x0000000000000011#64, 0x0000FFFF0000FFFF#64),
    (0x0000000000000012#64, 0x000000000000FFFF#64), (0x0000000000000013#64, 0x000000000000FFFF#64),
    (0x0000000000000014#64, 0xFFFFFFFFFFFFFFFF#64), (0x0000000000000020#64, 0x000000000000F0FF#64),
    (0x0000000000000021#64, 0x0000FFFF0000F0FF#64), (0x0000000000000022#64, 0x0000FFFF0000F0FF#64),
    (0x0000000000000023#64, 0xFFFFFFFFFFFF00FF#64), (0x0000000000000024#64, 0x00000000FFFF00FF#64),
    (0x0000000000000025#64, 0x00000000FFFF00FF#64), (0x0000000000000030#64, 0xFFFFFFFFFFF000FF#64),
    (0x0000000000000031#64, 0xFFFFFFFFFFF000FF#64), (0x0000000000000032#64, 0xFFFFFFFFFFF000FF#64),
    (0x0000000000000033#64, 0xFFFFFFFFFFF000FF#64), (0x0000000000000034#64, 0xFFFFFFFFFF0000FF#64),
    (0x0000000000000035#64, 0x00000000FFFF00FF#64), (0x0000000000000036#64, 0x00000000FFFF00FF#64),
    (0x0000000000000037#64, 0xFFFFFFFFFFF000FF#64), (0x0000000000000038#64, 0xFFFFFFFFFFF000FF#64),
    (0x0000000000000039#64, 0xFFFFFFFFFFF000FF#64), (0x000000000000003A#64, 0xFFFFFFFFFFF00FFF#64),
    (0x0000000000000040#64, 0xFFFFFFFFFF0000FF#64), (0x0000000000000041#64, 0xFFFFFFFFFFF000FF#64),
    (0x0000000000000042#64, 0xFFFFFFFFFFF000FF#64), (0x0000000000000043#64, 0xFFFFFFFFFFF00FFF#64) ]

end Sys2Proof
end

