-- ==== Sys2Proof/Machine/State.lean ====
section
/-! DEFINITION. The state of MOE-BAU (10_state.md), as plain data, and its value after power-on reset
(70_reset_and_hazards.md R205). -/

namespace Sys2Proof.Machine

/-- The modes of operation with their MCFG.MODE codes 0 to 8 (10_state.md R40). -/
inductive Mode where
  | ecb
  | cbc
  | pcbc
  | cfb
  | ofb
  | ctr
  | gcm
  | ccm
  | ocb
  deriving DecidableEq, Repr

/-- MCFG.DIR (R40). -/
inductive Dir where
  | encrypt
  | decrypt
  deriving DecidableEq, Repr

/-- MCFG.PAD, the legal values (R40, 49_padding.md R169). -/
inductive Pad where
  | none
  | pkcs7
  | zero
  deriving DecidableEq, Repr

/-- MCFG.SEG (R40). -/
inductive Seg where
  | block
  | byte
  deriving DecidableEq, Repr

/-- MCFG.TAGPL (R40). -/
inductive TagPlace where
  | combined
  | detached
  deriving DecidableEq, Repr

/-- PHASE.PH, the phase of the session (R45, R47); the values 5 to 7 do not occur. -/
inductive SessionPhase where
  | idle
  | ready
  | data
  | done
  | failed
  deriving DecidableEq, Repr

/-- The PHASE register, CSR 5 (R45). -/
structure PhaseReg where
  ph : SessionPhase
  aadDone : Bool
  tagOk : Bool
  authFail : Bool
  cipherFail : Bool
  padFail : Bool
  smode : Mode
  sdir : Dir
  deriving DecidableEq, Repr

/-- The hidden mode context `ctx` (R48). Blocks are held as integers `be(block)`. -/
structure Ctx where
  mode : Mode
  dir : Dir
  pad : Pad
  seg : Seg
  taglen : Nat
  tagpl : TagPlace
  /-- Data bytes consumed by MPROC and MFINAL, tag bytes excluded. -/
  processed : Nat
  /-- CBC, PCBC, CFB, OFB: the chain value. -/
  V : Block
  /-- CTR: the next counter block. -/
  CTR : Block
  /-- GCM: the hash subkey E(0^128). -/
  H : Block
  /-- GCM: the last counter block used. -/
  CB : Block
  /-- GCM: E(J0). -/
  EJ0 : Block
  /-- GCM: the GHASH accumulator. -/
  X : Block
  /-- GCM: AAD bytes. -/
  alen : Nat
  /-- GCM: ciphertext bytes. -/
  clen : Nat
  /-- CCM: size of the message-length field. -/
  q : Nat
  /-- CCM: the nonce. -/
  N : Bytes
  /-- CCM: the CBC-MAC chain value. -/
  Y : Block
  /-- CCM: E(A_0). -/
  S0 : Block
  /-- CCM: index of the last counter block; OCB: full blocks processed. -/
  i : Nat
  /-- CCM: AAD length taken from CCM_ALEN. -/
  calen : Nat
  /-- CCM: message length taken from CCM_MLEN. -/
  cmlen : Nat
  /-- OCB: L_* = E(0^128). -/
  Lstar : Block
  /-- OCB: L_$ = double(L_*). -/
  Ldollar : Block
  /-- OCB: the current offset. -/
  Off : Block
  /-- OCB: the plaintext checksum. -/
  Chk : Block
  /-- OCB: HASH(K, A). -/
  HA : Block
  deriving DecidableEq, Repr

/-- Every field 0, as MRESET and reset leave it (R48). A zeroed nonce holds no byte (log 5). -/
def Ctx.zero : Ctx :=
  { mode := .ecb, dir := .encrypt, pad := .none, seg := .block, taglen := 0, tagpl := .combined, processed := 0
    V := 0, CTR := 0, H := 0, CB := 0, EJ0 := 0, X := 0, alen := 0, clen := 0, q := 0, N := [], Y := 0, S0 := 0
    i := 0, calen := 0, cmlen := 0, Lstar := 0, Ldollar := 0, Off := 0, Chk := 0, HA := 0 }

/-- PHASE = 0 (R45). -/
def PhaseReg.zero : PhaseReg :=
  { ph := .idle, aadDone := false, tagOk := false, authFail := false, cipherFail := false, padFail := false
    smode := .ecb, sdir := .encrypt }

/-- One big register: its integer and its valid bit (R25, R26). -/
structure BigReg where
  valid : Bool
  value : Nat
  deriving DecidableEq, Repr

/-- The FLAGS register, CSR 6 (R28). -/
structure Flags where
  z : Bool
  lt : Bool
  eq : Bool
  gt : Bool
  nr : Bool
  pp : Bool
  deriving DecidableEq, Repr

/-- The interrupt enables of CTRL (R32). -/
structure Enables where
  done : Bool
  err : Bool
  ovf : Bool
  deriving DecidableEq, Repr

/-- BUF as (address, byte) pairs; Machine/Ops.lean says what an unlisted address reads as and gives the canonical form. -/
abbrev Memory := List Host.Cell

/-- One event of the total order of 20_memory.md R66: the engine's turn, or a host access (R61). -/
inductive HostEvent where
  /-- The engine performs one step. -/
  | engine
  /-- The host reads the word at an address. -/
  | read (a : HostAddr)
  /-- The host writes the word at an address. -/
  | write (a : HostAddr) (v : Word32)
  deriving DecidableEq, Repr

/-- The whole state of MOE-BAU. -/
structure State where
  /-- b0 to b15 (R25). -/
  regs : Vector BigReg 16
  /-- CSR 6 (R28). -/
  flags : Flags
  /-- CSR 0 (R40). -/
  mcfg : Word32
  /-- CSR 1 (R41). -/
  tagaddr : Word32
  /-- CSR 2 (R42). -/
  ccmMlen : Word32
  /-- CSR 3 (R43). -/
  ccmAlen : Word32
  /-- CSR 4 (R44). -/
  outlen : Word32
  /-- CSR 5 (R45). -/
  phase : PhaseReg
  /-- The hidden mode context (R48). -/
  ctx : Ctx
  /-- The command queue, its head first (R51). -/
  queue : List Word64
  /-- CMDLAT, the latch behind CMD_LO (R38). -/
  cmdlat : Word32
  /-- CTRL (R32). -/
  enables : Enables
  /-- STATUS.ERR and STATUS.ERRCODE: no code iff ERR = 0 (R33). -/
  err : Option FaultCode
  /-- STATUS.DONE (R33). -/
  done : Bool
  /-- STATUS.OVF (R33). -/
  ovf : Bool
  /-- CMDCNT (R35). -/
  cmdcnt : Word32
  /-- ERRIDX (R36). -/
  erridx : Word32
  /-- ERRCMD_HI and ERRCMD_LO (R37). -/
  errcmd : Word64
  /-- BUF (20_memory.md R55). -/
  buf : Memory
  /-- The model's own field: the events still to come, the first next; when it is empty the engine moves (log 2). -/
  host : List HostEvent
  /-- The model's own field: the value the last host read returned (log 2). -/
  rdata : Word32
  deriving DecidableEq, Repr

/-- An invalid register; R26 and U2 let the model store 0, which nothing reads (log 1). -/
def BigReg.invalid : BigReg := { valid := false, value := 0 }

/-- Every flag 0 (R28). -/
def Flags.zero : Flags := { z := false, lt := false, eq := false, gt := false, nr := false, pp := false }

/-- CTRL = 0 (R32). -/
def Enables.zero : Enables := { done := false, err := false, ovf := false }

/-- Power-on reset with the BUF contents `bufInit` (70_reset_and_hazards.md R205, parameter BUF_INIT). -/
def State.powerOn (bufInit : Memory) : State :=
  { regs := Vector.replicate 16 BigReg.invalid
    flags := Flags.zero
    mcfg := 0, tagaddr := 0, ccmMlen := 0, ccmAlen := 0, outlen := 0
    phase := PhaseReg.zero
    ctx := Ctx.zero
    queue := []
    cmdlat := 0
    enables := Enables.zero
    err := none
    done := false
    ovf := false
    cmdcnt := 0
    erridx := 0
    errcmd := 0
    buf := bufInit
    host := []
    rdata := 0 }

/-- The machine right after power-on reset, with every byte of BUF 0, a choice of the model (log 4). -/
def State.reset : State := State.powerOn []

/-- A behaviour that stops the machine. There is none: every fault of 60_exceptions.md is taken and answers a next
state with the fault entry of R195, so no constructor is raised by anything (safe: nothing is hidden by a stop). -/
inductive Fault where
  deriving DecidableEq, Repr

/-- An instruction the model gives no meaning. -/
inductive Refusal where
  /-- Raised by an arm of `exec` whose instruction has no meaning yet; safe, the model stops. No arm raises it. -/
  | notModelled (mnemonic : String)
  deriving DecidableEq, Repr

/-- The result of Exec(w) (40_control.md R90): the state the command leaves, or the fault it raises with the state its
rule leaves before the fault entry. -/
inductive Result where
  | ok (s : State)
  | raise (c : FaultCode) (s : State)
  deriving DecidableEq, Repr

end Sys2Proof.Machine
end

