-- ==== Sys2Proof/Machine/Flags.lean ====
section
/-! DEFINITION. The flag computations of the BAU commands, and the 32-bit views of FLAGS, PHASE and BVALID. -/

namespace Sys2Proof.Machine

/-- Z after a command whose last written register value is `v` (41_biguint_data.md R98). -/
def Flags.withZ (f : Flags) (v : Nat) : Flags := { f with z := decide (v = 0) }

/-- LT, EQ, GT after BCMP of `a` and `b` (42_biguint_arith.md R116). -/
def Flags.withCompare (f : Flags) (a b : Nat) : Flags :=
  { f with lt := decide (a < b), eq := decide (a = b), gt := decide (b < a) }

/-- NR after BINV (43_biguint_modular.md R119). -/
def Flags.withNoInverse (f : Flags) (noInverse : Bool) : Flags := { f with nr := noInverse }

/-- PP after BSPRP (43_biguint_modular.md R120). -/
def Flags.withProbablePrime (f : Flags) (pp : Bool) : Flags := { f with pp := pp }

/-- CSR 6 as the host reads it (10_state.md R28). -/
def Flags.word (f : Flags) : Word32 :=
  BitVec.ofNat 32
    (f.z.toNat + 2 * f.lt.toNat + 4 * f.eq.toNat + 8 * f.gt.toNat + 16 * f.nr.toNat + 32 * f.pp.toNat)

/-- The MCFG.MODE code of a mode (10_state.md R40). -/
def Mode.code : Mode → Nat
  | .ecb => 0
  | .cbc => 1
  | .pcbc => 2
  | .cfb => 3
  | .ofb => 4
  | .ctr => 5
  | .gcm => 6
  | .ccm => 7
  | .ocb => 8

/-- The MCFG.DIR code of a direction (10_state.md R40). -/
def Dir.code : Dir → Nat
  | .encrypt => 0
  | .decrypt => 1

/-- The PHASE.PH code of a phase (10_state.md R45). -/
def SessionPhase.code : SessionPhase → Nat
  | .idle => 0
  | .ready => 1
  | .data => 2
  | .done => 3
  | .failed => 4

/-- CSR 5 as the host reads it (10_state.md R45). -/
def PhaseReg.word (p : PhaseReg) : Word32 :=
  BitVec.ofNat 32
    (p.ph.code + 8 * p.aadDone.toNat + 16 * p.tagOk.toNat + 32 * p.authFail.toNat + 64 * p.cipherFail.toNat
      + 128 * p.padFail.toNat + 256 * p.smode.code + 4096 * p.sdir.code)

/-- The valid bits of a list of registers, the first at bit 0. -/
def validBits : List BigReg → Nat
  | [] => 0
  | r :: rs => r.valid.toNat + 2 * validBits rs

/-- CSR 7 as the host reads it (10_state.md R46). -/
def bvalidWord (s : State) : Word32 := BitVec.ofNat 32 (validBits s.regs.toList)

/-- The code STATUS.ERRCODE reports for a fault (60_exceptions.md R177). -/
def faultNumber : FaultCode → Nat
  | .illegalOpcode => 1
  | .reservedField => 2
  | .illegalCsr => 3
  | .bufBounds => 4
  | .regUninit => 5
  | .sequence => 6
  | .badConfig => 7
  | .badNonce => 8
  | .length => 9
  | .padding => 10
  | .authFail => 11
  | .cipherFail => 12
  | .divZero => 13
  | .underflow => 14
  | .capacity => 15
  | .operandRange => 16

end Sys2Proof.Machine
end

