-- ==== Sys2Proof/Machine/Ops.lean ====
section
/-! DEFINITION. The named operations over registers, BUF and the session, the end of a command (40_control.md R90), taking
a fault (60_exceptions.md R195) and the return from one (R196). -/

namespace Sys2Proof

/-- A block cut to the block size: its low 64 bits when blocks have 8 bytes (10_state.md R52). -/
def Cipher.cut (C : Cipher) (b : Block) : Block := if C.wide then b else b &&& 0xFFFFFFFFFFFFFFFF#128

/-- E, encrypt one block, or fail (R52). -/
def Cipher.E (C : Cipher) (b : Block) : Option Block := (C.enc b).map C.cut

/-- D, decrypt one block, or fail (R52). -/
def Cipher.D (C : Cipher) (b : Block) : Option Block := (C.dec b).map C.cut

end Sys2Proof

namespace Sys2Proof.Machine

/-- What a BUF address that memory does not list reads as (log 4). -/
def unlistedByte : Byte := 0#8

/-- One byte of BUF. -/
def Memory.read : Memory → Nat → Byte
  | [], _ => unlistedByte
  | (k, v) :: m, a => if a = k then v else Memory.read m a

/-- Put one byte into BUF, keeping addresses rising and no entry equal to `unlistedByte`. -/
def Memory.write : Memory → Nat → Byte → Memory
  | [], a, b => if b = unlistedByte then [] else [(a, b)]
  | (k, v) :: m, a, b =>
    if a < k then if b = unlistedByte then (k, v) :: m else (a, b) :: (k, v) :: m
    else if a = k then if b = unlistedByte then m else (a, b) :: m
    else (k, v) :: Memory.write m a b

/-- The canonical form of BUF: addresses strictly rising and inside BUF, no entry an unlisted address would read as. -/
abbrev Memory.wf (m : Memory) : Prop :=
  m.Pairwise (fun p q => p.1 < q.1) ∧ ∀ c ∈ m, c.1 < Config.BUF_BYTES ∧ c.2 ≠ unlistedByte

/-- `MemRead(a, n)`: the byte string `BUF[a..a+n)` (00_scope.md R19). -/
def Memory.readBytes (m : Memory) (a : Nat) : Nat → Bytes
  | 0 => []
  | n + 1 => m.read a :: Memory.readBytes m (a + 1) n

/-- `MemWrite(a, len(v), v)` (00_scope.md R19). -/
def Memory.writeBytes (m : Memory) (a : Nat) : Bytes → Memory
  | [] => m
  | b :: bs => Memory.writeBytes (m.write a b) (a + 1) bs

/-- The region `(a, n)` is in bounds (20_memory.md R56). -/
def inBounds (a n : Nat) : Bool := decide (a + n ≤ Config.BUF_BYTES)

/-- A big register. -/
def State.bigReg (s : State) (r : Reg) : BigReg := s.regs[r.val]

/-- `x[r]`: the value of a valid register (00_scope.md R19). -/
def State.readReg (s : State) (r : Reg) : Option Nat :=
  if (s.bigReg r).valid then some (s.bigReg r).value else none

/-- `x[r] <- v`: the register holds `v` and is valid (00_scope.md R19). -/
def State.writeReg (s : State) (r : Reg) (v : Nat) : State :=
  { s with regs := s.regs.set r.val { valid := true, value := v } r.isLt }

/-- Write the flags. -/
def State.setFlags (s : State) (f : Flags) : State := { s with flags := f }

/-- Write a register and Z from the value written (41_biguint_data.md R98). -/
def State.putReg (s : State) (r : Reg) (v : Nat) : State := (s.writeReg r v).setFlags (s.flags.withZ v)

/-- Replace the contents of BUF. -/
def State.setBuf (s : State) (m : Memory) : State := { s with buf := m }

/-- Replace the mode context and PHASE. -/
def State.setSession (s : State) (c : Ctx) (p : PhaseReg) : State := { s with ctx := c, phase := p }

/-- OUTLEN <- n (10_state.md R44). -/
def State.setOutlen (s : State) (n : Nat) : State := { s with outlen := BitVec.ofNat 32 n }

/-- PHASE.CIPHFAIL <- 1; PHASE.PH <- FAILED (44_mode_session.md R127). -/
def PhaseReg.failCipher (p : PhaseReg) : PhaseReg := { p with cipherFail := true, ph := .failed }

/-- The end of a command that raised no fault (40_control.md R90): it leaves the queue, CMDCNT counts it, and DONE is set
when the queue is then empty. -/
def State.commit (s : State) : State :=
  { s with queue := s.queue.tail, cmdcnt := s.cmdcnt + 1, done := s.done || s.queue.tail.isEmpty }

/-- TAKING A FAULT (60_exceptions.md R195): ERR and ERRCODE, the command word at the head of the queue into ERRCMD,
CMDCNT into ERRIDX, and the queue emptied. No step faults with an empty queue (log 12). -/
def State.takeFault (s : State) (c : FaultCode) : State :=
  { s with err := some c, errcmd := s.queue.headD 0, erridx := s.cmdcnt, queue := [] }

/-- THE RETURN FROM A FAULT (60_exceptions.md R196): ERR and ERRCODE are 0; ERRCMD and ERRIDX stay. -/
def State.ackFault (s : State) : State := { s with err := none }

/-- The outcome of one engine step from the result of its command (40_control.md R90). -/
def finish : Result → Host.Outcome State Fault Refusal
  | .ok s => .next s.commit
  | .raise c s => .next (s.takeFault c)

/-- The fault of the first check that holds, the checks in priority order (60_exceptions.md R194). -/
def firstFault : List (Bool × FaultCode) → Option FaultCode
  | [] => none
  | (bad, c) :: rest => if bad then some c else firstFault rest

/-- Write a result to a register, or raise CAPACITY if it does not fit (41_biguint_data.md R97). -/
def State.putBounded (s : State) (r : Reg) (v : Nat) : Result :=
  if Config.CAPACITY ≤ v then .raise .capacity s else .ok (s.putReg r v)

/-- The value of WCSR's write, CSR 0 to 3 (40_control.md R94). -/
def State.writeCsr (s : State) (n : Nat) (v : Word32) : State :=
  match n with
  | 0 => { s with mcfg := v }
  | 1 => { s with tagaddr := v }
  | 2 => { s with ccmMlen := v }
  | 3 => { s with ccmAlen := v }
  | _ => s

/-- CSR n as the host reads it (10_state.md R39). -/
def State.readCsr (s : State) (n : Nat) : Word32 :=
  match n with
  | 0 => s.mcfg
  | 1 => s.tagaddr
  | 2 => s.ccmMlen
  | 3 => s.ccmAlen
  | 4 => s.outlen
  | 5 => s.phase.word
  | 6 => s.flags.word
  | 7 => bvalidWord s
  | _ => 0

end Sys2Proof.Machine
end

