-- ==== Sys2Proof/Machine/Operands.lean ====
section
/-! DEFINITION. The operand forms: big registers as sources, words of a big integer, byte strings and blocks, the pieces
of a string, and the fields of MCFG. -/

namespace Sys2Proof.Machine

/-- Go on with the value of a source register, or raise REG_UNINIT (41_biguint_data.md R96). -/
def State.source (s : State) (r : Reg) (k : Nat → Result) : Result :=
  match s.readReg r with
  | some v => k v
  | none => .raise .regUninit s

/-- Word k of a value (10_state.md R27). -/
def wordAt (v k : Nat) : Nat := (v >>> (Config.W * k)) % 2 ^ Config.W

/-- `old` with word k replaced by `v` (41_biguint_data.md R105). -/
def setWordAt (old k v : Nat) : Nat := old - (wordAt old k <<< (Config.W * k)) + (v <<< (Config.W * k))

/-- The number of bits of a value (00_scope.md R20). -/
def bitlen (v : Nat) : Nat := if v = 0 then 0 else Nat.log2 v + 1

/-- Count trailing zero bits with `fuel` bits to look at. -/
def ntzFuel : Nat → Nat → Nat
  | 0, _ => 0
  | fuel + 1, v => if v % 2 = 0 then ntzFuel fuel (v / 2) + 1 else 0

/-- The number of trailing zero bits of v > 0 (00_scope.md R20). -/
def ntz (v : Nat) : Nat := ntzFuel v v

/-- `be(s)` (00_scope.md R17). -/
def be (s : Bytes) : Nat := s.foldl (fun acc b => acc * 256 + b.toNat) 0

/-- `be_n(v)` (00_scope.md R17). -/
def beBytes : Nat → Nat → Bytes
  | 0, _ => []
  | n + 1, v => BitVec.ofNat 8 (v >>> (8 * n)) :: beBytes n v

/-- A byte string of at most 16 bytes as a block integer (00_scope.md R18). -/
def blockOf (s : Bytes) : Block := BitVec.ofNat 128 (be s)

/-- The n bytes of a block integer. -/
def blockBytes (n : Nat) (b : Block) : Bytes := beBytes n b.toNat

/-- `xor(a, b)` over the shorter length (00_scope.md R16). -/
def xorBytes (a b : Bytes) : Bytes := List.zipWith (fun x y => x ^^^ y) a b

/-- The first `count` pieces of n bytes each. -/
def pieces (n : Nat) : Nat → Bytes → List Bytes
  | 0, _ => []
  | count + 1, s => s.take n :: pieces n count (s.drop n)

/-- `s` with the fewest zero bytes that make its length a multiple of 16. -/
def zeroPad16 (s : Bytes) : Bytes := s ++ List.replicate ((16 - s.length % 16) % 16) 0#8

/-- The 16-byte pieces of `s`, the last zero-padded, as block integers (46_mode_gcm.md R144). -/
def paddedBlocks (s : Bytes) : List Block :=
  (pieces 16 ((s.length + 15) / 16) (zeroPad16 s)).map blockOf

/-- Compare two strings of equal length over their whole length (70_reset_and_hazards.md R210). -/
def fullEqual (a b : Bytes) : Bool := (xorBytes a b).foldl (fun acc d => acc ||| d) 0#8 == 0#8

/-- MCFG.MODE, if it is one of the nine (10_state.md R40). -/
def mcfgMode (w : Word32) : Option Mode :=
  match bits w 3 0 with
  | 0 => some .ecb
  | 1 => some .cbc
  | 2 => some .pcbc
  | 3 => some .cfb
  | 4 => some .ofb
  | 5 => some .ctr
  | 6 => some .gcm
  | 7 => some .ccm
  | 8 => some .ocb
  | _ => none

/-- MCFG.DIR (10_state.md R40). -/
def mcfgDir (w : Word32) : Dir := if bits w 4 4 = 0 then .encrypt else .decrypt

/-- MCFG.PAD, if it is not the reserved value (10_state.md R40). -/
def mcfgPad (w : Word32) : Option Pad :=
  match bits w 6 5 with
  | 0 => some .none
  | 1 => some .pkcs7
  | 2 => some .zero
  | _ => none

/-- MCFG.SEG (10_state.md R40). -/
def mcfgSeg (w : Word32) : Seg := if bits w 7 7 = 0 then .block else .byte

/-- MCFG.TAGLEN (10_state.md R40). -/
def mcfgTaglen (w : Word32) : Nat := bits w 12 8

/-- MCFG.TAGPL (10_state.md R40). -/
def mcfgTagpl (w : Word32) : TagPlace := if bits w 13 13 = 0 then .combined else .detached

end Sys2Proof.Machine
end

