-- ==== Sys2Proof/Machine/BigArith.lean ====
section
/-! DEFINITION. Arithmetic, shifts, logic and comparison of the BAU (42_biguint_arith.md). -/

namespace Sys2Proof.Machine

/-- BADD (R106). -/
def execBadd (rd rs1 rs2 : Reg) (s : State) : Host.Outcome State Fault Refusal :=
  finish (s.source rs1 fun a => s.source rs2 fun b => s.putBounded rd (a + b))

/-- BSUB (R107). -/
def execBsub (rd rs1 rs2 : Reg) (s : State) : Host.Outcome State Fault Refusal :=
  finish
    (s.source rs1 fun a =>
      s.source rs2 fun b => if a < b then .raise .underflow s else .ok (s.putReg rd (a - b)))

/-- BMULW (R108): the multiplier is one word. -/
def execBmulw (rd rs1 rs2 : Reg) (s : State) : Host.Outcome State Fault Refusal :=
  finish
    (s.source rs1 fun a =>
      s.source rs2 fun m => if 2 ^ Config.W ≤ m then .raise .operandRange s else s.putBounded rd (a * m))

/-- BMUL (R109). -/
def execBmul (rd rs1 rs2 : Reg) (s : State) : Host.Outcome State Fault Refusal :=
  finish (s.source rs1 fun a => s.source rs2 fun b => s.putBounded rd (a * b))

/-- BDIV (R110): quotient to rd, then remainder to rs3, which is a destination only. -/
def execBdiv (rd rs1 rs2 rs3 : Reg) (s : State) : Host.Outcome State Fault Refusal :=
  finish
    (s.source rs1 fun a =>
      s.source rs2 fun b =>
        if b = 0 then .raise .divZero s else .ok ((s.writeReg rd (a / b)).putReg rs3 (a % b)))

/-- BSHL (R111): 0 shifted by any amount is 0. -/
def execBshl (rd rs1 : Reg) (n : Nat) (s : State) : Host.Outcome State Fault Refusal :=
  finish
    (s.source rs1 fun a =>
      if a ≠ 0 ∧ Config.W * Config.MAXW < bitlen a + n then .raise .capacity s else .ok (s.putReg rd (a <<< n)))

/-- BSHR (R112). -/
def execBshr (rd rs1 : Reg) (n : Nat) (s : State) : Host.Outcome State Fault Refusal :=
  finish (s.source rs1 fun a => .ok (s.putReg rd (a >>> n)))

/-- BAND (R113). -/
def execBand (rd rs1 rs2 : Reg) (s : State) : Host.Outcome State Fault Refusal :=
  finish (s.source rs1 fun a => s.source rs2 fun b => .ok (s.putReg rd (a &&& b)))

/-- BOR (R114). -/
def execBor (rd rs1 rs2 : Reg) (s : State) : Host.Outcome State Fault Refusal :=
  finish (s.source rs1 fun a => s.source rs2 fun b => .ok (s.putReg rd (a ||| b)))

/-- BXOR (R115). -/
def execBxor (rd rs1 rs2 : Reg) (s : State) : Host.Outcome State Fault Refusal :=
  finish (s.source rs1 fun a => s.source rs2 fun b => .ok (s.putReg rd (a ^^^ b)))

/-- BCMP (R116): LT, EQ and GT, no register. -/
def execBcmp (rs1 rs2 : Reg) (s : State) : Host.Outcome State Fault Refusal :=
  finish (s.source rs1 fun a => s.source rs2 fun b => .ok (s.setFlags (s.flags.withCompare a b)))

end Sys2Proof.Machine
end

