-- ==== Sys2Proof/Machine/BigData.lean ====
section
/-! DEFINITION. The data-movement commands of the BAU (41_biguint_data.md section 2). -/

namespace Sys2Proof.Machine

/-- BLDI (R100). -/
def execBldi (rd : Reg) (imm : Nat) (s : State) : Host.Outcome State Fault Refusal := finish (.ok (s.putReg rd imm))

/-- BLD (R101): big-endian, bounds before capacity. -/
def execBld (r : Reg) (a l : Nat) (s : State) : Host.Outcome State Fault Refusal :=
  finish (if inBounds a l then s.putBounded r (be (s.buf.readBytes a l)) else .raise .bufBounds s)

/-- BST (R102): exactly L bytes, big-endian; no flag. -/
def execBst (r : Reg) (a l : Nat) (s : State) : Host.Outcome State Fault Refusal :=
  finish
    (s.source r fun v =>
      match firstFault [(!inBounds a l, .bufBounds), (decide (2 ^ (8 * l) ≤ v), .operandRange)] with
      | some f => .raise f s
      | none => .ok (s.setBuf (s.buf.writeBytes a (beBytes l v))))

/-- BMOV (R103). -/
def execBmov (rd rs1 : Reg) (s : State) : Host.Outcome State Fault Refusal :=
  finish (s.source rs1 fun v => .ok (s.putReg rd v))

/-- BGETW (R104). -/
def execBgetw (rd rs1 : Reg) (idx : Nat) (s : State) : Host.Outcome State Fault Refusal :=
  finish (s.source rs1 fun v => .ok (s.putReg rd (wordAt v idx)))

/-- BSETW (R105): rs1 is checked before rd. A nonzero word at or beyond MAXW never fits. -/
def execBsetw (rd rs1 : Reg) (idx : Nat) (s : State) : Host.Outcome State Fault Refusal :=
  finish
    (s.source rs1 fun v =>
      s.source rd fun old =>
        if 2 ^ Config.W ≤ v then .raise .operandRange s
        else if v ≠ 0 ∧ Config.MAXW ≤ idx then .raise .capacity s
        else s.putBounded rd (setWordAt old idx v))

end Sys2Proof.Machine
end

