-- ==== Sys2Proof/Machine/BigModular.lean ====
section
/-! DEFINITION. Modular arithmetic of the BAU (43_biguint_modular.md). The methods are the model's (R95, D46; log 9): only
the exact values matter, and Laws/Arithmetic.lean proves them. -/

namespace Sys2Proof.Machine

/-- Right-to-left square and multiply, `acc · b^e mod m` for e at most `fuel`. -/
def powModLoop (m : Nat) : Nat → Nat → Nat → Nat → Nat
  | 0, _, _, acc => acc
  | fuel + 1, b, e, acc =>
    if e = 0 then acc else powModLoop m fuel (b * b % m) (e / 2) (if e % 2 = 1 then acc * b % m else acc)

/-- `(b^e) mod m` (R117). -/
def powMod (b e m : Nat) : Nat := powModLoop m e (b % m) e (1 % m)

/-- Euclid's loop on `r0 > r1` with the coefficients of the inverse, all modulo m; `r1` is at most `fuel`. -/
def invModLoop (m : Nat) : Nat → Nat → Nat → Nat → Nat → Nat
  | 0, _, _, t0, _ => t0
  | fuel + 1, r0, r1, t0, t1 =>
    if r1 = 0 then t0 else invModLoop m fuel r1 (r0 % r1) t1 ((t0 + (m - r0 / r1 * t1 % m)) % m)

/-- The r below m with `(a · r) mod m = 1`, for a and m without a common factor (R119). -/
def invMod (a m : Nat) : Nat := invModLoop m m m (a % m) 0 (1 % m)

/-- Whether one of the next `left` squarings of y modulo n is n − 1 (R120). -/
def squaresHit (n : Nat) : Nat → Nat → Bool
  | 0, _ => false
  | left + 1, y => y * y % n == n - 1 || squaresHit n left (y * y % n)

/-- n is a strong probable prime to base a, for odd n at least 3: `n − 1 = d · 2^s` with d odd (R120). -/
def strongProbablePrime (n a : Nat) : Bool :=
  let s := ntz (n - 1)
  let y := powMod a ((n - 1) / 2 ^ s) n
  y == 1 || y == n - 1 || squaresHit n (s - 1) y

/-- BPOW (R117). -/
def execBpow (rd rs1 rs2 rs3 : Reg) (s : State) : Host.Outcome State Fault Refusal :=
  finish
    (s.source rs1 fun b =>
      s.source rs2 fun e =>
        s.source rs3 fun m => if m = 0 then .raise .divZero s else .ok (s.putReg rd (powMod b e m)))

/-- BGCD (R118). -/
def execBgcd (rd rs1 rs2 : Reg) (s : State) : Host.Outcome State Fault Refusal :=
  finish (s.source rs1 fun a => s.source rs2 fun b => .ok (s.putReg rd (Nat.gcd a b)))

/-- BINV (R119): without an inverse only NR is written. -/
def execBinv (rd rs1 rs2 : Reg) (s : State) : Host.Outcome State Fault Refusal :=
  finish
    (s.source rs1 fun a =>
      s.source rs2 fun m =>
        if m ≤ 1 then .raise .operandRange s
        else if Nat.gcd a m ≠ 1 then .ok (s.setFlags (s.flags.withNoInverse true))
        else .ok ((s.setFlags (s.flags.withNoInverse false)).putReg rd (invMod a m)))

/-- BSPRP (R120): PP only. -/
def execBsprp (rs1 rs2 : Reg) (s : State) : Host.Outcome State Fault Refusal :=
  finish
    (s.source rs1 fun n =>
      s.source rs2 fun a =>
        if n ≤ 2 ∨ n % 2 = 0 ∨ a ≤ 1 then .raise .operandRange s
        else .ok (s.setFlags (s.flags.withProbablePrime (strongProbablePrime n a))))

end Sys2Proof.Machine
end

