-- ==== Sys2Proof/Machine/Control.lean ====
section
/-! DEFINITION. The control commands NOP and WCSR (40_control.md section 2). -/

namespace Sys2Proof.Machine

/-- NOP (R93). -/
def execNop (s : State) : Host.Outcome State Fault Refusal := finish (.ok s)

/-- The checks of WCSR in order (R94). -/
def wcsrChecks (csr : Nat) (imm : Word32) : List (Bool × FaultCode) :=
  [ (decide (3 < csr), .illegalCsr),
    (csr == 0 && bits imm 31 14 != 0, .reservedField),
    (csr == 1 && bits imm 31 16 != 0, .reservedField) ]

/-- WCSR (R94). -/
def execWcsr (csr : Nat) (imm : Word32) (s : State) : Host.Outcome State Fault Refusal :=
  finish
    (match firstFault (wcsrChecks csr imm) with
      | some f => .raise f s
      | none => .ok (s.writeCsr csr imm))

end Sys2Proof.Machine
end

