-- ==== Sys2Proof/Machine/BasicModes.lean ====
section
/-! DEFINITION. The unauthenticated modes of 45_mode_basic.md: ECB, CBC, PCBC, CFB, CFB-8, OFB, CTR. A step answers none
when the collaborator fails; R127 then keeps the segment and the context. -/

namespace Sys2Proof.Machine

/-- ECB Step (R135). -/
def ecbStep (C : Cipher) (c : Ctx) (x : Block) : Option (Block × Ctx) :=
  match c.dir with
  | .encrypt => (C.E x).map fun o => (o, c)
  | .decrypt => (C.D x).map fun o => (o, c)

/-- CBC Step (R136). -/
def cbcStep (C : Cipher) (c : Ctx) (x : Block) : Option (Block × Ctx) :=
  match c.dir with
  | .encrypt => (C.E (x ^^^ c.V)).map fun o => (o, { c with V := o })
  | .decrypt => (C.D x).map fun d => (d ^^^ c.V, { c with V := x })

/-- PCBC Step (R137): the chain value is P xor C. -/
def pcbcStep (C : Cipher) (c : Ctx) (x : Block) : Option (Block × Ctx) :=
  match c.dir with
  | .encrypt => (C.E (x ^^^ c.V)).map fun o => (o, { c with V := x ^^^ o })
  | .decrypt => (C.D x).map fun d => (d ^^^ c.V, { c with V := d ^^^ c.V ^^^ x })

/-- CFB Step with the full-block segment (R138): E in both directions. -/
def cfbStep (C : Cipher) (c : Ctx) (x : Block) : Option (Block × Ctx) :=
  (C.E c.V).map fun k =>
    match c.dir with
    | .encrypt => (x ^^^ k, { c with V := x ^^^ k })
    | .decrypt => (x ^^^ k, { c with V := x })

/-- CFB Step with the 8-bit segment (R139): `x` is one byte, the shift register drops its first byte and takes the
ciphertext byte. -/
def cfb8Step (C : Cipher) (c : Ctx) (x : Bytes) : Option (Bytes × Ctx) :=
  (C.E c.V).map fun k =>
    let o := xorBytes x (blockBytes C.bs k)
    let ciphertext := match c.dir with
      | .encrypt => o
      | .decrypt => x
    (o, { c with V := blockOf ((blockBytes C.bs c.V).drop 1 ++ ciphertext) })

/-- OFB Step (R140). -/
def ofbStep (C : Cipher) (c : Ctx) (x : Block) : Option (Block × Ctx) :=
  (C.E c.V).map fun k => (x ^^^ k, { c with V := k })

/-- The next counter block: the last BS/2 bytes plus 1, the first BS/2 unchanged (R141). -/
def ctrNext (C : Cipher) (b : Block) : Block :=
  let s := blockBytes C.bs b
  let h := C.bs / 2
  blockOf (s.take h ++ beBytes h (be (s.drop h) + 1))

/-- CTR Step (R141). -/
def ctrStep (C : Cipher) (c : Ctx) (x : Block) : Option (Block × Ctx) :=
  (C.E c.CTR).map fun k => (x ^^^ k, { c with CTR := ctrNext C c.CTR })

/-- CFB Tail (R142): the first r keystream bytes. -/
def cfbTail (C : Cipher) (c : Ctx) (x : Bytes) : Option (Bytes × Ctx) :=
  (C.E c.V).map fun k => (xorBytes x (blockBytes C.bs k), c)

/-- OFB Tail (R142). -/
def ofbTail (C : Cipher) (c : Ctx) (x : Bytes) : Option (Bytes × Ctx) :=
  (C.E c.V).map fun k => (xorBytes x (blockBytes C.bs k), { c with V := k })

/-- CTR Tail (R142). -/
def ctrTail (C : Cipher) (c : Ctx) (x : Bytes) : Option (Bytes × Ctx) :=
  (C.E c.CTR).map fun k => (xorBytes x (blockBytes C.bs k), { c with CTR := ctrNext C c.CTR })

end Sys2Proof.Machine
end

