-- ==== Sys2Proof/Machine/Ccm.lean ====
section
/-! DEFINITION. CCM and CBC-MAC chaining (47_mode_ccm.md). -/

namespace Sys2Proof.Machine

/-- The flags byte of B0 (R152). -/
def ccmFlags (calen t q : Nat) : Nat := 64 * (if 0 < calen then 1 else 0) + 8 * ((t - 2) / 2) + (q - 1)

/-- Block B0 (R153). -/
def ccmB0 (calen cmlen t : Nat) (n : Bytes) : Block :=
  blockOf (beBytes 1 (ccmFlags calen t (15 - n.length)) ++ n ++ beBytes (15 - n.length) cmlen)

/-- Counter block A_i (R153). -/
def ccmA (q : Nat) (n : Bytes) (i : Nat) : Block := blockOf (beBytes 1 (q - 1) ++ n ++ beBytes q i)

/-- CCM Init (R154); `alen` and `mlen` are CCM_ALEN and CCM_MLEN. -/
def ccmInit (C : Cipher) (c : Ctx) (n : Bytes) (alen mlen : Nat) : Option Ctx :=
  (C.E (ccmB0 alen mlen c.taglen n)).bind fun y =>
    (C.E (ccmA (15 - n.length) n 0)).map fun s0 =>
      { c with q := 15 - n.length, N := n, calen := alen, cmlen := mlen, Y := y, S0 := s0, i := 0 }

/-- The CBC-MAC chain over blocks, or a failure. -/
def cbcMac (C : Cipher) (y : Block) : List Block → Option Block
  | [] => some y
  | b :: bs => (C.E (y ^^^ b)).bind fun y' => cbcMac C y' bs

/-- The length prefix of the AAD (R155). -/
def ccmAadPrefix (n : Nat) : Bytes :=
  if n < 0xFF00 then beBytes 2 n else [0xFF#8, 0xFE#8] ++ beBytes 4 n

/-- CCM Aad (R155): an empty string chains nothing. -/
def ccmAad (C : Cipher) (c : Ctx) (a : Bytes) : Option Ctx :=
  if a.length = 0 then some c
  else (cbcMac C c.Y (paddedBlocks (ccmAadPrefix a.length ++ a))).map fun y => { c with Y := y }

/-- CCM Step (R156, R159): the CBC-MAC runs over the plaintext in both directions. -/
def ccmStep (C : Cipher) (c : Ctx) (x : Block) : Option (Block × Ctx) :=
  (C.E (ccmA c.q c.N (c.i + 1))).bind fun s =>
    let plaintext := match c.dir with
      | .encrypt => x
      | .decrypt => x ^^^ s
    (C.E (c.Y ^^^ plaintext)).map fun y => (x ^^^ s, { c with i := c.i + 1, Y := y })

/-- CCM Tail (R157). -/
def ccmTail (C : Cipher) (c : Ctx) (x : Bytes) : Option (Bytes × Ctx) :=
  (C.E (ccmA c.q c.N (c.i + 1))).bind fun s =>
    let o := xorBytes x (blockBytes 16 s)
    let plaintext := match c.dir with
      | .encrypt => x
      | .decrypt => o
    (C.E (c.Y ^^^ blockOf (zeroPad16 plaintext))).map fun y => (o, { c with i := c.i + 1, Y := y })

/-- CCM Tag (R158). -/
def ccmTag (c : Ctx) : Bytes := xorBytes ((blockBytes 16 c.Y).take c.taglen) ((blockBytes 16 c.S0).take c.taglen)

end Sys2Proof.Machine
end

