-- ==== Sys2Proof/Machine/Gcm.lean ====
section
/-! DEFINITION. GCM and the GHASH accumulator (46_mode_gcm.md). -/

namespace Sys2Proof.Machine

/-- R of R143: the block e1 00 ... 00. -/
def gcmR : Block := 0xE1000000000000000000000000000000#128

/-- The loop of R143 with `left` bits of X still to take, the most significant first. -/
def gcmMulLoop (x : Block) : Nat → Block → Block → Block
  | 0, z, _ => z
  | left + 1, z, v =>
    gcmMulLoop x left (if x.getLsbD left then z ^^^ v else z) (if v.getLsbD 0 then (v >>> 1) ^^^ gcmR else v >>> 1)

/-- `X • Y` in GF(2^128) (R143). -/
def gcmMul (x y : Block) : Block := gcmMulLoop x 128 0 y

/-- Fold(X, s) under the hash subkey `h` (R144). -/
def ghashFold (h : Block) (x : Block) (s : Bytes) : Block :=
  (paddedBlocks s).foldl (fun acc p => gcmMul (acc ^^^ p) h) x

/-- inc32 (R145). -/
def inc32 (b : Block) : Block :=
  let s := blockBytes 16 b
  blockOf (s.take 12 ++ beBytes 4 (be (s.drop 12) + 1))

/-- J0 from the nonce (R146). -/
def gcmJ0 (h : Block) (n : Bytes) : Block :=
  if n.length = 12 then blockOf (n ++ beBytes 4 1)
  else ghashFold h 0 (n ++ List.replicate ((16 - n.length % 16) % 16 + 8) 0#8 ++ beBytes 8 (8 * n.length))

/-- GCM Init (R146). -/
def gcmInit (C : Cipher) (c : Ctx) (n : Bytes) : Option Ctx :=
  (C.E 0).bind fun h =>
    (C.E (gcmJ0 h n)).map fun ej0 => { c with H := h, CB := gcmJ0 h n, EJ0 := ej0, X := 0, alen := 0, clen := 0 }

/-- GCM Aad (R147). -/
def gcmAad (c : Ctx) (a : Bytes) : Ctx := { c with X := ghashFold c.H c.X a, alen := a.length }

/-- GCM Step (R148). -/
def gcmStep (C : Cipher) (c : Ctx) (x : Block) : Option (Block × Ctx) :=
  (C.E (inc32 c.CB)).map fun k =>
    let ciphertext := match c.dir with
      | .encrypt => x ^^^ k
      | .decrypt => x
    (x ^^^ k, { c with CB := inc32 c.CB, X := gcmMul (c.X ^^^ ciphertext) c.H, clen := c.clen + 16 })

/-- GCM Tail (R149). -/
def gcmTail (C : Cipher) (c : Ctx) (x : Bytes) : Option (Bytes × Ctx) :=
  (C.E (inc32 c.CB)).map fun k =>
    let o := xorBytes x (blockBytes 16 k)
    let ciphertext := match c.dir with
      | .encrypt => o
      | .decrypt => x
    (o, { c with CB := inc32 c.CB, X := gcmMul (c.X ^^^ blockOf (zeroPad16 ciphertext)) c.H
                 clen := c.clen + x.length })

/-- GCM Tag (R150): the length block takes the bit lengths modulo 2^64. -/
def gcmTag (c : Ctx) : Bytes :=
  let lb := blockOf (beBytes 8 (8 * c.alen) ++ beBytes 8 (8 * c.clen))
  (blockBytes 16 (c.EJ0 ^^^ gcmMul (c.X ^^^ lb) c.H)).take c.taglen

end Sys2Proof.Machine
end

