-- ==== Sys2Proof/Machine/Ocb.lean ====
section
/-! DEFINITION. OCB masking and tag generation (48_mode_ocb.md). -/

namespace Sys2Proof.Machine

/-- Doubling in GF(2^128) (R160). -/
def ocbDouble (s : Block) : Block := (s <<< 1) ^^^ (if s.getLsbD 127 then 0x87#128 else 0)

/-- L_j from L_$ (R161). -/
def ocbL (ldollar : Block) : Nat → Block
  | 0 => ocbDouble ldollar
  | j + 1 => ocbDouble (ocbL ldollar j)

/-- pad1(b) as a block (R162). -/
def ocbPad1 (b : Bytes) : Block := blockOf (b ++ [0x80#8] ++ List.replicate (15 - b.length) 0#8)

/-- The 128-bit formatted nonce for a tag of `t` bytes (R163). -/
def ocbNonce (t : Nat) (n : Bytes) : Block :=
  BitVec.ofNat 128 ((8 * t % 128) <<< 121 ||| 1 <<< (8 * n.length) ||| be n)

/-- Stretch, 192 bits (R163). -/
def ocbStretch (ktop : Block) : BitVec 192 :=
  (ktop.zeroExtend 192 <<< 64) ||| ((ktop >>> 64) ^^^ ((ktop >>> 56) &&& 0xFFFFFFFFFFFFFFFF#128)).zeroExtend 192

/-- OCB Init (R163). -/
def ocbInit (C : Cipher) (c : Ctx) (n : Bytes) : Option Ctx :=
  (C.E 0).bind fun lstar =>
    let nonce := ocbNonce c.taglen n
    let bottom := nonce.toNat % 64
    (C.E (nonce &&& ~~~63#128)).map fun ktop =>
      { c with Lstar := lstar, Ldollar := ocbDouble lstar, Off := (ocbStretch ktop >>> (64 - bottom)).truncate 128
               Chk := 0, HA := 0, i := 0 }

/-- The loop of R164 over the whole blocks, the next being number `j`: the offset and the sum, or a failure. -/
def ocbHashLoop (C : Cipher) (ldollar : Block) : Nat → Block → Block → List Block → Option (Block × Block)
  | _, o, sum, [] => some (o, sum)
  | j, o, sum, b :: bs =>
    (C.E (b ^^^ (o ^^^ ocbL ldollar (ntz j)))).bind fun e =>
      ocbHashLoop C ldollar (j + 1) (o ^^^ ocbL ldollar (ntz j)) (sum ^^^ e) bs

/-- HASH(a) (R164). -/
def ocbHash (C : Cipher) (lstar ldollar : Block) (a : Bytes) : Option Block :=
  let m := a.length / 16
  let rest := a.drop (16 * m)
  (ocbHashLoop C ldollar 1 0 0 ((pieces 16 m a).map blockOf)).bind fun (o, sum) =>
    if rest.length = 0 then some sum
    else (C.E (ocbPad1 rest ^^^ (o ^^^ lstar))).map fun e => sum ^^^ e

/-- OCB Aad (R164). -/
def ocbAad (C : Cipher) (c : Ctx) (a : Bytes) : Option Ctx :=
  (ocbHash C c.Lstar c.Ldollar a).map fun h => { c with HA := h }

/-- OCB Step (R165): D on whole blocks when decrypting. -/
def ocbStep (C : Cipher) (c : Ctx) (x : Block) : Option (Block × Ctx) :=
  let off := c.Off ^^^ ocbL c.Ldollar (ntz (c.i + 1))
  match c.dir with
  | .encrypt => (C.E (x ^^^ off)).map fun e => (off ^^^ e, { c with i := c.i + 1, Off := off, Chk := c.Chk ^^^ x })
  | .decrypt =>
    (C.D (x ^^^ off)).map fun d => (off ^^^ d, { c with i := c.i + 1, Off := off, Chk := c.Chk ^^^ (off ^^^ d) })

/-- OCB Tail (R166): E in both directions. -/
def ocbTail (C : Cipher) (c : Ctx) (x : Bytes) : Option (Bytes × Ctx) :=
  let off := c.Off ^^^ c.Lstar
  (C.E off).map fun pad =>
    let o := xorBytes x (blockBytes 16 pad)
    let plaintext := match c.dir with
      | .encrypt => x
      | .decrypt => o
    (o, { c with Off := off, Chk := c.Chk ^^^ ocbPad1 plaintext })

/-- OCB Tag (R167), or a failure of its one collaborator call. -/
def ocbTag (C : Cipher) (c : Ctx) : Option Bytes :=
  (C.E (c.Chk ^^^ c.Off ^^^ c.Ldollar)).map fun k => (blockBytes 16 (k ^^^ c.HA)).take c.taglen

end Sys2Proof.Machine
end

