-- ==== Sys2Proof/Machine/Padding.lean ====
section
/-! DEFINITION. The padding schemes (49_padding.md). -/

namespace Sys2Proof.Machine

/-- PadLen(pad, L): the bytes encryption appends to L bytes of data (R170). -/
def padLen (bs : Nat) (pad : Pad) (l : Nat) : Nat :=
  match pad with
  | .none => 0
  | .pkcs7 => bs - l % bs
  | .zero => (bs - l % bs) % bs

/-- PadAdd(pad, x) (R171, R173, R175). -/
def padAdd (bs : Nat) (pad : Pad) (x : Bytes) : Bytes :=
  match pad with
  | .none => x
  | .pkcs7 => x ++ List.replicate (padLen bs .pkcs7 x.length) (BitVec.ofNat 8 (padLen bs .pkcs7 x.length))
  | .zero => x ++ List.replicate (padLen bs .zero x.length) 0#8

/-- PadRemove(pad, y), none where the padding is malformed (R172, R174, R175). -/
def padRemove (bs : Nat) (pad : Pad) (y : Bytes) : Option Bytes :=
  match pad with
  | .none => some y
  | .pkcs7 =>
    let n := (y.getLastD 0#8).toNat
    if n = 0 ∨ bs < n ∨ y.length < n then none else some (y.take (y.length - n))
  | .zero => some (y.take (y.length - ((y.reverse.take (bs - 1)).takeWhile (fun b => b == 0#8)).length))

end Sys2Proof.Machine
end

