-- ==== Sys2Proof/Machine/Session.lean ====
section
/-! DEFINITION. The mode engine's sessions and its commands MINIT, MAAD, MPROC, MFINAL and MRESET
(44_mode_session.md). -/

namespace Sys2Proof.Machine

/-- ECB, CBC and PCBC, the modes without a tail (R122). -/
def Mode.isBlock (m : Mode) : Bool := m == .ecb || m == .cbc || m == .pcbc

/-- GCM, CCM and OCB, the modes with a tag (R121). -/
def Mode.isAuth (m : Mode) : Bool := m == .gcm || m == .ccm || m == .ocb

/-- The segment size S of a session (R122). -/
def segmentSize (C : Cipher) (c : Ctx) : Nat := if c.mode = .cfb ∧ c.seg = .byte then 1 else C.bs

/-- Items 2 to 8 of R123 do not hold. -/
def configLegal (C : Cipher) (c : Ctx) (ccmAlen : Nat) : Bool :=
  !(c.pad != .none && !c.mode.isBlock)
    && !(c.seg == .byte && c.mode != .cfb)
    && !(c.mode.isAuth && C.bs != 16)
    && !((c.mode == .gcm || c.mode == .ocb) && !(c.taglen ∈ [4, 8, 12, 13, 14, 15, 16]))
    && !(c.mode == .ccm && !(c.taglen ∈ [4, 6, 8, 10, 12, 14, 16]))
    && !(c.mode == .ccm && decide (65535 < ccmAlen))
    && !(!c.mode.isAuth && (c.taglen != 0 || c.tagpl != .combined))

/-- The zeroed context with the fields copied from an MCFG value, or none if R123 makes it BAD_CONFIG. -/
def sessionConfig (C : Cipher) (mcfg : Word32) (ccmAlen : Nat) : Option Ctx :=
  match mcfgMode mcfg, mcfgPad mcfg with
  | some mode, some pad =>
    let c := { Ctx.zero with mode := mode, dir := mcfgDir mcfg, pad := pad, seg := mcfgSeg mcfg
                             taglen := mcfgTaglen mcfg, tagpl := mcfgTagpl mcfg }
    if configLegal C c ccmAlen then some c else none
  | _, _ => none

/-- The nonce length `l` is legal for the mode (R124). -/
def nonceLegal (C : Cipher) (m : Mode) (l : Nat) : Bool :=
  match m with
  | .ecb => l == 0
  | .cbc | .pcbc | .cfb | .ofb | .ctr => l == C.bs
  | .gcm => decide (1 ≤ l ∧ l ≤ 65535)
  | .ccm => decide (7 ≤ l ∧ l ≤ 13)
  | .ocb => decide (1 ≤ l ∧ l ≤ 15)

/-- Init(N) (R125, R134); `alen` and `mlen` are CCM_ALEN and CCM_MLEN. -/
def modeInit (C : Cipher) (c : Ctx) (n : Bytes) (alen mlen : Nat) : Option Ctx :=
  match c.mode with
  | .ecb => some c
  | .cbc | .pcbc | .cfb | .ofb => some { c with V := blockOf n }
  | .ctr => some { c with CTR := blockOf n }
  | .gcm => gcmInit C c n
  | .ccm => ccmInit C c n alen mlen
  | .ocb => ocbInit C c n

/-- Aad(a) (R125). The unauthenticated modes have none; MAAD does not reach them. -/
def modeAad (C : Cipher) (c : Ctx) (a : Bytes) : Option Ctx :=
  match c.mode with
  | .gcm => some (gcmAad c a)
  | .ccm => ccmAad C c a
  | .ocb => ocbAad C c a
  | .ecb | .cbc | .pcbc | .cfb | .ofb | .ctr => none

/-- A step on a whole block, given and answered as bytes. -/
def onBlock (C : Cipher) (step : Cipher → Ctx → Block → Option (Block × Ctx)) (c : Ctx) (x : Bytes) :
    Option (Bytes × Ctx) :=
  (step C c (blockOf x)).map fun r => (blockBytes C.bs r.1, r.2)

/-- Step(x) on one whole segment (R125). -/
def modeStep (C : Cipher) (c : Ctx) (x : Bytes) : Option (Bytes × Ctx) :=
  match c.mode with
  | .ecb => onBlock C ecbStep c x
  | .cbc => onBlock C cbcStep c x
  | .pcbc => onBlock C pcbcStep c x
  | .cfb => match c.seg with
    | .block => onBlock C cfbStep c x
    | .byte => cfb8Step C c x
  | .ofb => onBlock C ofbStep c x
  | .ctr => onBlock C ctrStep c x
  | .gcm => onBlock C gcmStep c x
  | .ccm => onBlock C ccmStep c x
  | .ocb => onBlock C ocbStep c x

/-- Tail(x) on the final partial segment (R125). ECB, CBC, PCBC have none; MFINAL does not reach them. -/
def modeTail (C : Cipher) (c : Ctx) (x : Bytes) : Option (Bytes × Ctx) :=
  match c.mode with
  | .ecb | .cbc | .pcbc => none
  | .cfb => cfbTail C c x
  | .ofb => ofbTail C c x
  | .ctr => ctrTail C c x
  | .gcm => gcmTail C c x
  | .ccm => ccmTail C c x
  | .ocb => ocbTail C c x

/-- Tag() (R125). The unauthenticated modes have none; MFINAL does not reach them. -/
def modeTag (C : Cipher) (c : Ctx) : Option Bytes :=
  match c.mode with
  | .gcm => some (gcmTag c)
  | .ccm => some (ccmTag c)
  | .ocb => ocbTag C c
  | .ecb | .cbc | .pcbc | .cfb | .ofb | .ctr => none

/-- What Run leaves: the output, the context, and whether no collaborator call failed (R126). -/
structure RunResult where
  out : Bytes
  ctx : Ctx
  ok : Bool
  deriving DecidableEq, Repr

/-- One segment (R127): a failed one passes through unchanged and leaves the context. -/
def runOne (f : Ctx → Bytes → Option (Bytes × Ctx)) (r : RunResult) (x : Bytes) : RunResult :=
  match f r.ctx x with
  | some (o, c) => { out := r.out ++ o, ctx := c, ok := r.ok }
  | none => { out := r.out ++ x, ctx := r.ctx, ok := false }

/-- Run(x) (R126): the whole segments in order, then the tail if there is one. -/
def run (C : Cipher) (c : Ctx) (x : Bytes) : RunResult :=
  let size := segmentSize C c
  let count := x.length / size
  let whole := (pieces size count x).foldl (runOne (modeStep C)) { out := [], ctx := c, ok := true }
  if x.length % size = 0 then whole else runOne (modeTail C) whole (x.drop (size * count))

/-- The PHASE register of a session just started (R129). -/
def PhaseReg.start (c : Ctx) (ph : SessionPhase) (cipherFail : Bool) : PhaseReg :=
  { ph := ph, aadDone := false, tagOk := false, authFail := false, cipherFail := cipherFail, padFail := false
    smode := c.mode, sdir := c.dir }

/-- A session is running: READY or DATA (R47). -/
def PhaseReg.running (p : PhaseReg) : Bool := p.ph == .ready || p.ph == .data

/-- A CCM session with AAD still to come (R131, R132). -/
def aadMissing (s : State) : Bool := s.ctx.mode == .ccm && decide (0 < s.ctx.calen) && !s.phase.aadDone

/-- MINIT on the collaborator `C` (R129). -/
def minit (C : Cipher) (a l : Nat) (s : State) : Result :=
  if s.phase.running then .raise .sequence s
  else
    match sessionConfig C s.mcfg s.ccmAlen.toNat with
    | none => .raise .badConfig s
    | some c =>
      match firstFault
        [ (!nonceLegal C c.mode l, .badNonce),
          (c.mode == .ccm && decide (2 ^ (8 * (15 - l)) ≤ s.ccmMlen.toNat), .length),
          (!inBounds a l, .bufBounds) ] with
      | some f => .raise f s
      | none =>
        match modeInit C c (s.buf.readBytes a l) s.ccmAlen.toNat s.ccmMlen.toNat with
        | none => .raise .cipherFail ((s.setSession c (PhaseReg.start c .failed true)).setOutlen 0)
        | some c' => .ok ((s.setSession c' (PhaseReg.start c .ready false)).setOutlen 0)

/-- The checks of MAAD in order (R130). -/
def maadChecks (a l : Nat) (s : State) : List (Bool × FaultCode) :=
  [ (s.phase.ph != .ready || s.phase.aadDone || !s.ctx.mode.isAuth, .sequence),
    (s.ctx.mode == .ccm && l != s.ctx.calen, .length),
    (!inBounds a l, .bufBounds) ]

/-- MAAD on the collaborator `C` (R130). -/
def maad (C : Cipher) (a l : Nat) (s : State) : Result :=
  match firstFault (maadChecks a l s) with
  | some f => .raise f s
  | none =>
    match modeAad C s.ctx (s.buf.readBytes a l) with
    | none => .raise .cipherFail (s.setSession s.ctx s.phase.failCipher)
    | some c => .ok (s.setSession c { s.phase with aadDone := true })

/-- The checks of MPROC in order (R131). -/
def mprocChecks (C : Cipher) (a b l : Nat) (s : State) : List (Bool × FaultCode) :=
  [ (!s.phase.running, .sequence),
    (aadMissing s, .sequence),
    (l % segmentSize C s.ctx != 0, .length),
    (s.ctx.mode == .ccm && decide (s.ctx.cmlen < s.ctx.processed + l), .length),
    (!inBounds a l, .bufBounds),
    (!inBounds b l, .bufBounds) ]

/-- MPROC on the collaborator `C` (R131). -/
def mproc (C : Cipher) (a b l : Nat) (s : State) : Result :=
  match firstFault (mprocChecks C a b l s) with
  | some f => .raise f s
  | none =>
    let r := run C s.ctx (s.buf.readBytes a l)
    let c := { r.ctx with processed := s.ctx.processed + l }
    let p := { s.phase with ph := .data }
    let s' := (s.setBuf (s.buf.writeBytes b r.out)).setOutlen l
    if r.ok then .ok (s'.setSession c p) else .raise .cipherFail (s'.setSession c p.failCipher)

/-- MFINAL's data length: without the tag of a combined-tag decryption (R132). -/
def finalDataLen (c : Ctx) (l : Nat) : Nat :=
  if c.mode.isAuth && c.dir == .decrypt && c.tagpl == .combined then l - c.taglen else l

/-- MFINAL's padding length (R132). -/
def finalPadLen (C : Cipher) (c : Ctx) (l : Nat) : Nat :=
  if c.mode.isBlock && c.dir == .encrypt then padLen C.bs c.pad l else 0

/-- The most bytes MFINAL could write at its output address (R132). -/
def finalOutMax (C : Cipher) (c : Ctx) (l : Nat) : Nat :=
  finalDataLen c l + finalPadLen C c l
    + (if c.mode.isAuth && c.dir == .encrypt && c.tagpl == .combined then c.taglen else 0)

/-- The checks of MFINAL in order (R132). -/
def mfinalChecks (C : Cipher) (a b l : Nat) (s : State) : List (Bool × FaultCode) :=
  let c := s.ctx
  [ (!s.phase.running, .sequence),
    (aadMissing s, .sequence),
    (c.mode.isBlock && c.dir == .encrypt && c.pad == .none && l % C.bs != 0, .length),
    (c.mode.isBlock && c.dir == .decrypt && l % C.bs != 0, .length),
    (c.mode.isBlock && c.dir == .decrypt && c.pad != .none && decide (l < C.bs), .length),
    (c.mode.isAuth && c.dir == .decrypt && c.tagpl == .combined && decide (l < c.taglen), .length),
    (c.mode == .ccm && c.processed + finalDataLen c l != c.cmlen, .length),
    (!inBounds a l, .bufBounds),
    (!inBounds b (finalOutMax C c l), .bufBounds),
    (c.mode.isAuth && c.tagpl == .detached && !inBounds s.tagaddr.toNat c.taglen, .bufBounds) ]

/-- The received tag of a decryption: after the data, or at TAGADDR (R132). -/
def receivedTag (a l : Nat) (s : State) : Bytes :=
  match s.ctx.tagpl with
  | .combined => s.buf.readBytes (a + finalDataLen s.ctx l) s.ctx.taglen
  | .detached => s.buf.readBytes s.tagaddr.toNat s.ctx.taglen

/-- The end of MFINAL in an authenticated mode (R132), from what Run left. -/
def finalAuth (C : Cipher) (a b l : Nat) (r : RunResult) (s : State) : Result :=
  let dlen := finalDataLen s.ctx l
  let c := { r.ctx with processed := s.ctx.processed + dlen }
  match (if r.ok then modeTag C c else none) with
  | none =>
    match s.ctx.dir with
    | .encrypt =>
      .raise .cipherFail
        (((s.setBuf (s.buf.writeBytes b r.out)).setOutlen dlen).setSession c s.phase.failCipher)
    | .decrypt => .raise .cipherFail ((s.setOutlen 0).setSession c s.phase.failCipher)
  | some tag =>
    let p := { s.phase with tagOk := true, ph := .done }
    match s.ctx.dir, s.ctx.tagpl with
    | .encrypt, .combined =>
      .ok (((s.setBuf ((s.buf.writeBytes b r.out).writeBytes (b + dlen) tag)).setOutlen
        (dlen + s.ctx.taglen)).setSession c p)
    | .encrypt, .detached =>
      .ok (((s.setBuf ((s.buf.writeBytes b r.out).writeBytes s.tagaddr.toNat tag)).setOutlen dlen).setSession c p)
    | .decrypt, _ =>
      if fullEqual tag (receivedTag a l s) then
        .ok (((s.setBuf (s.buf.writeBytes b r.out)).setOutlen dlen).setSession c p)
      else .raise .authFail ((s.setOutlen 0).setSession c { s.phase with authFail := true, ph := .failed })

/-- The end of MFINAL in an unauthenticated mode (R132), from what Run left. -/
def finalPlain (C : Cipher) (b l : Nat) (r : RunResult) (s : State) : Result :=
  let c := { r.ctx with processed := s.ctx.processed + l }
  if !r.ok then
    .raise .cipherFail
      (((s.setBuf (s.buf.writeBytes b r.out)).setOutlen r.out.length).setSession c s.phase.failCipher)
  else
    match (if s.ctx.mode.isBlock && s.ctx.dir == .decrypt then padRemove C.bs s.ctx.pad r.out else some r.out) with
    | none => .raise .padding ((s.setOutlen 0).setSession c { s.phase with padFail := true, ph := .failed })
    | some out =>
      .ok (((s.setBuf (s.buf.writeBytes b out)).setOutlen out.length).setSession c { s.phase with ph := .done })

/-- MFINAL on the collaborator `C` (R132). -/
def mfinal (C : Cipher) (a b l : Nat) (s : State) : Result :=
  match firstFault (mfinalChecks C a b l s) with
  | some f => .raise f s
  | none =>
    let x := s.buf.readBytes a (finalDataLen s.ctx l)
    if s.ctx.mode.isAuth then finalAuth C a b l (run C s.ctx x) s
    else
      finalPlain C b l
        (run C s.ctx (if s.ctx.mode.isBlock && s.ctx.dir == .encrypt then padAdd C.bs s.ctx.pad x else x)) s

/-- MRESET (R133). -/
def mreset (s : State) : State := (s.setSession Ctx.zero PhaseReg.zero).setOutlen 0

/-- MINIT (R129). -/
def execMinit (a l : Nat) (s : State) : Host.Outcome State Fault Refusal := finish (minit Config.cipher a l s)

/-- MAAD (R130). -/
def execMaad (a l : Nat) (s : State) : Host.Outcome State Fault Refusal := finish (maad Config.cipher a l s)

/-- MPROC (R131). -/
def execMproc (a b l : Nat) (s : State) : Host.Outcome State Fault Refusal := finish (mproc Config.cipher a b l s)

/-- MFINAL (R132). -/
def execMfinal (a b l : Nat) (s : State) : Host.Outcome State Fault Refusal := finish (mfinal Config.cipher a b l s)

/-- MRESET (R133). -/
def execMreset (s : State) : Host.Outcome State Fault Refusal := finish (.ok (mreset s))

end Sys2Proof.Machine
end

