-- ==== Sys2Proof/Machine/Dispatch.lean ====
section
/-! DEFINITION. One arm per command: its meaning. -/

namespace Sys2Proof.Machine

/-- One engine step of the command `i` at the head of the queue (40_control.md R89, R90): its effect, or its fault taken. -/
def exec (i : Instr) (s : State) : Host.Outcome State Fault Refusal :=
  match i with
  | .nop => Sys2Proof.Machine.execNop s
  | .wcsr csr imm => Sys2Proof.Machine.execWcsr csr imm s
  | .minit a l => Sys2Proof.Machine.execMinit a l s
  | .maad a l => Sys2Proof.Machine.execMaad a l s
  | .mproc a b l => Sys2Proof.Machine.execMproc a b l s
  | .mfinal a b l => Sys2Proof.Machine.execMfinal a b l s
  | .mreset => Sys2Proof.Machine.execMreset s
  | .bldi rd imm => Sys2Proof.Machine.execBldi rd imm s
  | .bld r a l => Sys2Proof.Machine.execBld r a l s
  | .bst r a l => Sys2Proof.Machine.execBst r a l s
  | .bmov rd rs1 => Sys2Proof.Machine.execBmov rd rs1 s
  | .bgetw rd rs1 idx => Sys2Proof.Machine.execBgetw rd rs1 idx s
  | .bsetw rd rs1 idx => Sys2Proof.Machine.execBsetw rd rs1 idx s
  | .badd rd rs1 rs2 => Sys2Proof.Machine.execBadd rd rs1 rs2 s
  | .bsub rd rs1 rs2 => Sys2Proof.Machine.execBsub rd rs1 rs2 s
  | .bmulw rd rs1 rs2 => Sys2Proof.Machine.execBmulw rd rs1 rs2 s
  | .bmul rd rs1 rs2 => Sys2Proof.Machine.execBmul rd rs1 rs2 s
  | .bdiv rd rs1 rs2 rs3 => Sys2Proof.Machine.execBdiv rd rs1 rs2 rs3 s
  | .bshl rd rs1 n => Sys2Proof.Machine.execBshl rd rs1 n s
  | .bshr rd rs1 n => Sys2Proof.Machine.execBshr rd rs1 n s
  | .band rd rs1 rs2 => Sys2Proof.Machine.execBand rd rs1 rs2 s
  | .bor rd rs1 rs2 => Sys2Proof.Machine.execBor rd rs1 rs2 s
  | .bxor rd rs1 rs2 => Sys2Proof.Machine.execBxor rd rs1 rs2 s
  | .bcmp rs1 rs2 => Sys2Proof.Machine.execBcmp rs1 rs2 s
  | .bpow rd rs1 rs2 rs3 => Sys2Proof.Machine.execBpow rd rs1 rs2 rs3 s
  | .bgcd rd rs1 rs2 => Sys2Proof.Machine.execBgcd rd rs1 rs2 s
  | .binv rd rs1 rs2 => Sys2Proof.Machine.execBinv rd rs1 rs2 s
  | .bsprp rs1 rs2 => Sys2Proof.Machine.execBsprp rs1 rs2 s

end Sys2Proof.Machine
end

