-- ==== Sys2Proof/Machine/HostPort.lean ====
section
/-! DEFINITION. The host port (10_state.md section 5, 20_memory.md section 2): reads, writes, the push of a command, the
soft reset and the interrupt line. -/

namespace Sys2Proof.Machine

/-- The interrupt output (60_exceptions.md R198). -/
def irq (s : State) : Bool :=
  (s.enables.done && s.done) || (s.enables.err && s.err.isSome) || (s.enables.ovf && s.ovf)

/-- STATUS.ERRCODE: 0 while ERR = 0 (10_state.md R33). -/
def errCode (s : State) : Nat :=
  match s.err with
  | some c => faultNumber c
  | none => 0

/-- STATUS (10_state.md R33). -/
def statusWord (s : State) : Word32 :=
  BitVec.ofNat 32
    ((decide (s.queue.length ≠ 0)).toNat + 2 * (decide (s.queue.length = 0)).toNat
      + 4 * (decide (s.queue.length = Config.CQ_DEPTH)).toNat + 8 * s.err.isSome.toNat + 16 * s.done.toNat
      + 32 * s.ovf.toNat + 64 * (irq s).toNat + 256 * errCode s)

/-- CTRL; SRST reads 0 (10_state.md R32). -/
def ctrlWord (s : State) : Word32 :=
  BitVec.ofNat 32 (2 * s.enables.done.toNat + 4 * s.enables.err.toNat + 8 * s.enables.ovf.toNat)

/-- PARAM (10_state.md R31). -/
def paramWord (C : Cipher) : Word32 :=
  BitVec.ofNat 32 (C.bs + 2 ^ 8 * Config.BUF_LOG2 + 2 ^ 16 * Config.W + 2 ^ 24 * Config.VERSION)

/-- PARAM2 (10_state.md R31). -/
def param2Word : Word32 := BitVec.ofNat 32 (Config.MAXW + 2 ^ 16 * Config.CQ_DEPTH)

/-- Four bytes of BUF, the lowest address in bits 7:0 (20_memory.md R63). -/
def windowRead (m : Memory) (a : Nat) : Word32 :=
  BitVec.ofNat 32
    ((m.read a).toNat + 2 ^ 8 * (m.read (a + 1)).toNat + 2 ^ 16 * (m.read (a + 2)).toNat
      + 2 ^ 24 * (m.read (a + 3)).toNat)

/-- The bytes of a word, bits 7:0 first (20_memory.md R63). -/
def windowBytes (v : Word32) : Bytes :=
  [BitVec.ofNat 8 (bits v 7 0), BitVec.ofNat 8 (bits v 15 8), BitVec.ofNat 8 (bits v 23 16), BitVec.ofNat 8 (bits v 31 24)]

/-- The offset an address acts on: bits 1:0 are ignored (20_memory.md R61). -/
def wordOffset (a : HostAddr) : Nat := a.toNat / 4 * 4

/-- A host read of the register or BUF word at an offset; reserved and write-only offsets read 0 (10_state.md R29,
20_memory.md R62, R63). -/
def hostReadAt (C : Cipher) (s : State) (off : Nat) : Word32 :=
  if 0x10000 ≤ off then
    if off < 0x10000 + Config.BUF_BYTES then windowRead s.buf (off - 0x10000) else 0
  else if 0x40 ≤ off ∧ off < 0x60 then s.readCsr ((off - 0x40) / 4)
  else
    match off with
    | 0x00 => Config.ID
    | 0x04 => paramWord C
    | 0x08 => param2Word
    | 0x0C => ctrlWord s
    | 0x10 => statusWord s
    | 0x14 => BitVec.ofNat 32 s.queue.length
    | 0x18 => s.cmdcnt
    | 0x1C => s.erridx
    | 0x20 => BitVec.ofNat 32 (bits s.errcmd 31 0)
    | 0x24 => BitVec.ofNat 32 (bits s.errcmd 63 32)
    | _ => 0

/-- The soft reset: the power-on values with BUF as it is (70_reset_and_hazards.md R206). The host's own list and the
last value it read are not state of the hardware. -/
def softReset (s : State) : State := { State.powerOn s.buf with host := s.host, rdata := s.rdata }

/-- A write to CTRL (10_state.md R32). -/
def writeCtrl (v : Word32) (s : State) : State :=
  if bits v 0 0 = 1 then softReset s
  else { s with enables := { done := bits v 1 1 == 1, err := bits v 2 2 == 1, ovf := bits v 3 3 == 1 } }

/-- A write to STATUS: bits 3, 4 and 5 clear ERR (the return from a fault), DONE and OVF (10_state.md R33). -/
def writeStatus (v : Word32) (s : State) : State :=
  let s₁ := if bits v 3 3 = 1 then s.ackFault else s
  { s₁ with done := s₁.done && bits v 4 4 == 0, ovf := s₁.ovf && bits v 5 5 == 0 }

/-- The push of a command word: dropped with OVF set while ERR = 1 or the queue is full (10_state.md R38). -/
def pushCommand (w : Word64) (s : State) : State :=
  if s.err = none ∧ s.queue.length < Config.CQ_DEPTH then { s with queue := s.queue ++ [w] } else { s with ovf := true }

/-- The command word formed by a write of `v` to CMD_HI (10_state.md R38). -/
def commandWord (v cmdlat : Word32) : Word64 := BitVec.ofNat 64 (2 ^ 32 * v.toNat + cmdlat.toNat)

/-- A host write at an offset; writes to read-only and reserved offsets are ignored (10_state.md R29, 20_memory.md R62,
R63). -/
def hostWriteAt (s : State) (off : Nat) (v : Word32) : State :=
  if 0x10000 ≤ off then
    if off < 0x10000 + Config.BUF_BYTES then s.setBuf (s.buf.writeBytes (off - 0x10000) (windowBytes v)) else s
  else
    match off with
    | 0x0C => writeCtrl v s
    | 0x10 => writeStatus v s
    | 0x28 => { s with cmdlat := v }
    | 0x2C => pushCommand (commandWord v s.cmdlat) s
    | _ => s

/-- A host read as one event (20_memory.md R64): the state is unchanged but for the value the host sees. -/
def hostRead (C : Cipher) (a : HostAddr) (s : State) : State := { s with rdata := hostReadAt C s (wordOffset a) }

/-- A host write as one event (20_memory.md R64). -/
def hostWrite (a : HostAddr) (v : Word32) (s : State) : State := hostWriteAt s (wordOffset a) v

/-- The head of the host's list is done. -/
def State.popHost (s : State) : State := { s with host := s.host.tail }

end Sys2Proof.Machine
end

