-- ==== Sys2Proof/Machine/Fetch.lean ====
section
/-! DEFINITION. Where the engine finds its next command: the head of the queue (40_control.md R89). -/

namespace Sys2Proof.Machine

/-- What the engine finds at its step: no command (QCOUNT = 0), a command, or a word that does not decode. -/
inductive Fetched where
  | idle
  | command (i : Instr)
  | bad (c : FaultCode)
  deriving DecidableEq, Repr

/-- Take the word at the head of the queue and decode it (40_control.md R89, 30_encoding.md R85). -/
def fetch (s : State) : Fetched :=
  match s.queue with
  | [] => .idle
  | w :: _ =>
    match decode w with
    | .ok i => .command i
    | .error c => .bad c

/-- `s` with the word `w` at the head of the queue, and no host access before the engine's turn. -/
def loadCommand (w : Word64) (s : State) : State := { s with queue := w :: s.queue.tail, host := [] }

end Sys2Proof.Machine
end

