-- ==== Sys2Proof/Machine/Step.lean ====
section
/-! DEFINITION. One event of the total order of 20_memory.md R66: an engine step or a host access. -/

namespace Sys2Proof.Machine

/-- The engine's step (40_control.md R89): nothing while the queue is empty, otherwise the command at its head, or the
decode fault of that word, taken. -/
def engineStep (s : State) : Host.Outcome State Fault Refusal :=
  match fetch s with
  | .idle => .next s
  | .command i => exec i s
  | .bad c => finish (.raise c s)

/-- One step: the event at the head of the host's list, or the engine's turn when the list is empty (R66; log 2). -/
def step (s : State) : Host.Outcome State Fault Refusal :=
  match s.host with
  | [] => engineStep s
  | .engine :: _ => engineStep s.popHost
  | .read a :: _ => .next (hostRead Config.cipher a s.popHost)
  | .write a v :: _ => .next (hostWrite a v s.popHost)

/-- `s` with the instruction whose low `nbits` bits are `w`, the others 0, as the next command of the engine (log 11). -/
def State.withFetchWord (s : State) (nbits w : Nat) : State := loadCommand (BitVec.ofNat 64 (w % 2 ^ nbits)) s

end Sys2Proof.Machine
end

