-- ==== Sys2Proof/Safety.lean ====
section
/-! DEFINITION. What counts as a safe run of MOE-BAU, and the words the claims are stated in: plain record updates of
State, written here from the spec and not through the operations of Machine/. -/

namespace Sys2Proof.Machine

/-- Register `r` is valid and holds `v` (10_state.md R25, R26). -/
def State.holds (s : State) (r : Reg) (v : Nat) : Prop := s.regs[r.val] = { valid := true, value := v }

/-- Register `r` is invalid (R26). -/
def State.lacks (s : State) (r : Reg) : Prop := s.regs[r.val].valid = false

/-- `s` with `v` in register `rd`, which is valid (R26). -/
def State.withReg (s : State) (rd : Reg) (v : Nat) : State :=
  { s with regs := s.regs.set rd.val { valid := true, value := v } rd.isLt }

/-- `s` with `v` in register `rd` and Z from `v` (41_biguint_data.md R98). -/
def State.withResult (s : State) (rd : Reg) (v : Nat) : State :=
  { s.withReg rd v with flags := { s.flags with z := decide (v = 0) } }

/-- `s` after a command that raised no fault, with `rest` queued behind it (40_control.md R90). -/
def State.completed (s : State) (rest : List Word64) : State :=
  { s with queue := rest, cmdcnt := s.cmdcnt + 1, done := s.done || rest.isEmpty }

/-- `s` after the command word `w` raised the fault `c` (60_exceptions.md R195). -/
def State.faulted (s : State) (w : Word64) (c : FaultCode) : State :=
  { s with err := some c, errcmd := w, erridx := s.cmdcnt, queue := [] }

/-- `s` with a mode context, PHASE and OUTLEN. -/
def State.withSession (s : State) (c : Ctx) (p : PhaseReg) (n : Nat) : State :=
  { s with ctx := c, phase := p, outlen := BitVec.ofNat 32 n }

/-- A BAU command (30_encoding.md R83). -/
def isBau : Instr → Bool
  | .nop | .wcsr _ _ | .minit _ _ | .maad _ _ | .mproc _ _ _ | .mfinal _ _ _ | .mreset => false
  | .bldi _ _ | .bld _ _ _ | .bst _ _ _ | .bmov _ _ | .bgetw _ _ _ | .bsetw _ _ _ | .badd _ _ _ | .bsub _ _ _
  | .bmulw _ _ _ | .bmul _ _ _ | .bdiv _ _ _ _ | .bshl _ _ _ | .bshr _ _ _ | .band _ _ _ | .bor _ _ _ | .bxor _ _ _
  | .bcmp _ _ | .bpow _ _ _ _ | .bgcd _ _ _ | .binv _ _ _ | .bsprp _ _ => true

/-- A mode-engine command (30_encoding.md R83). -/
def isMoe : Instr → Bool
  | .minit _ _ | .maad _ _ | .mproc _ _ _ | .mfinal _ _ _ | .mreset => true
  | .nop | .wcsr _ _ | .bldi _ _ | .bld _ _ _ | .bst _ _ _ | .bmov _ _ | .bgetw _ _ _ | .bsetw _ _ _ | .badd _ _ _
  | .bsub _ _ _ | .bmulw _ _ _ | .bmul _ _ _ | .bdiv _ _ _ _ | .bshl _ _ _ | .bshr _ _ _ | .band _ _ _ | .bor _ _ _
  | .bxor _ _ _ | .bcmp _ _ | .bpow _ _ _ _ | .bgcd _ _ _ | .binv _ _ _ | .bsprp _ _ => false

/-- The big registers a command reads, in the order it checks them (41_biguint_data.md R96). -/
def sourceRegs : Instr → List Reg
  | .nop | .wcsr _ _ | .minit _ _ | .maad _ _ | .mproc _ _ _ | .mfinal _ _ _ | .mreset | .bldi _ _ | .bld _ _ _ => []
  | .bst r _ _ => [r]
  | .bmov _ rs1 | .bgetw _ rs1 _ | .bshl _ rs1 _ | .bshr _ rs1 _ => [rs1]
  | .bsetw rd rs1 _ => [rs1, rd]
  | .badd _ rs1 rs2 | .bsub _ rs1 rs2 | .bmulw _ rs1 rs2 | .bmul _ rs1 rs2 | .bdiv _ rs1 rs2 _ | .band _ rs1 rs2
  | .bor _ rs1 rs2 | .bxor _ rs1 rs2 | .bcmp rs1 rs2 | .bgcd _ rs1 rs2 | .binv _ rs1 rs2 | .bsprp rs1 rs2 => [rs1, rs2]
  | .bpow _ rs1 rs2 rs3 => [rs1, rs2, rs3]

/-- The big registers a command may write (30_encoding.md R82, 41_biguint_data.md, 42_biguint_arith.md, 43_biguint_modular.md). -/
def destRegs : Instr → List Reg
  | .nop | .wcsr _ _ | .minit _ _ | .maad _ _ | .mproc _ _ _ | .mfinal _ _ _ | .mreset | .bst _ _ _ | .bcmp _ _
  | .bsprp _ _ => []
  | .bldi rd _ | .bld rd _ _ | .bmov rd _ | .bgetw rd _ _ | .bsetw rd _ _ | .badd rd _ _ | .bsub rd _ _ | .bmulw rd _ _
  | .bmul rd _ _ | .bshl rd _ _ | .bshr rd _ _ | .band rd _ _ | .bor rd _ _ | .bxor rd _ _ | .bpow rd _ _ _ | .bgcd rd _ _
  | .binv rd _ _ => [rd]
  | .bdiv rd _ _ rs3 => [rd, rs3]

/-- The faults the table of 60_exceptions.md R177 lets a command raise after it is decoded. -/
def faultsOf : Instr → List FaultCode
  | .nop | .mreset | .bldi _ _ => []
  | .wcsr _ _ => [.illegalCsr, .reservedField]
  | .minit _ _ => [.sequence, .badConfig, .badNonce, .length, .bufBounds, .cipherFail]
  | .maad _ _ => [.sequence, .length, .bufBounds, .cipherFail]
  | .mproc _ _ _ => [.sequence, .length, .bufBounds, .cipherFail]
  | .mfinal _ _ _ => [.sequence, .length, .bufBounds, .cipherFail, .padding, .authFail]
  | .bld _ _ _ => [.bufBounds, .capacity]
  | .bst _ _ _ => [.regUninit, .bufBounds, .operandRange]
  | .bmov _ _ | .bgetw _ _ _ | .bshr _ _ _ | .band _ _ _ | .bor _ _ _ | .bxor _ _ _ | .bcmp _ _ | .bgcd _ _ _ => [.regUninit]
  | .bsetw _ _ _ => [.regUninit, .operandRange, .capacity]
  | .badd _ _ _ | .bmul _ _ _ | .bshl _ _ _ => [.regUninit, .capacity]
  | .bsub _ _ _ => [.regUninit, .underflow]
  | .bmulw _ _ _ => [.regUninit, .operandRange, .capacity]
  | .bdiv _ _ _ _ | .bpow _ _ _ _ => [.regUninit, .divZero]
  | .binv _ _ _ | .bsprp _ _ => [.regUninit, .operandRange]

/-- A completion fault: one raised after a command has begun to change state (40_control.md R91). -/
def isCompletionFault (c : FaultCode) : Bool := c == .cipherFail || c == .padding || c == .authFail

/-- An MCFG value that MINIT refuses, item by item as R123 lists them, with the block size `bs` and the value of CCM_ALEN. -/
def ConfigIllegal (bs : Nat) (mcfg : Word32) (ccmAlen : Nat) : Prop :=
  let mode := bits mcfg 3 0
  let pad := bits mcfg 6 5
  let seg := bits mcfg 7 7
  let taglen := bits mcfg 12 8
  let tagpl := bits mcfg 13 13
  (8 < mode ∨ pad = 3)
    ∨ (pad ≠ 0 ∧ ¬(mode = 0 ∨ mode = 1 ∨ mode = 2))
    ∨ (seg = 1 ∧ mode ≠ 3)
    ∨ ((mode = 6 ∨ mode = 7 ∨ mode = 8) ∧ bs ≠ 16)
    ∨ ((mode = 6 ∨ mode = 8) ∧ taglen ∉ [4, 8, 12, 13, 14, 15, 16])
    ∨ (mode = 7 ∧ taglen ∉ [4, 6, 8, 10, 12, 14, 16])
    ∨ (mode = 7 ∧ 65535 < ccmAlen)
    ∨ (¬(mode = 6 ∨ mode = 7 ∨ mode = 8) ∧ (taglen ≠ 0 ∨ tagpl ≠ 0))

/-- A nonce length that MINIT refuses, by the MODE code, as R124's table lists them. -/
def NonceIllegal (bs mode l : Nat) : Prop :=
  (mode = 0 ∧ l ≠ 0)
    ∨ ((mode = 1 ∨ mode = 2 ∨ mode = 3 ∨ mode = 4 ∨ mode = 5) ∧ l ≠ bs)
    ∨ (mode = 6 ∧ ¬(1 ≤ l ∧ l ≤ 65535))
    ∨ (mode = 7 ∧ ¬(7 ≤ l ∧ l ≤ 13))
    ∨ (mode = 8 ∧ ¬(1 ≤ l ∧ l ≤ 15))

/-- The checks of MPROC all pass (44_mode_session.md R131). -/
def MprocAccepted (C : Cipher) (s : State) (a b l : Nat) : Prop :=
  (s.phase.ph = .ready ∨ s.phase.ph = .data)
    ∧ (s.ctx.mode = .ccm → 0 < s.ctx.calen → s.phase.aadDone = true)
    ∧ l % (if s.ctx.mode = .cfb ∧ s.ctx.seg = .byte then 1 else C.bs) = 0
    ∧ (s.ctx.mode = .ccm → s.ctx.processed + l ≤ s.ctx.cmlen)
    ∧ a + l ≤ Config.BUF_BYTES ∧ b + l ≤ Config.BUF_BYTES

/-- MFINAL of an unauthenticated session passes its checks (44_mode_session.md R132). -/
def MfinalPlainAccepted (C : Cipher) (s : State) (a b l : Nat) : Prop :=
  (s.phase.ph = .ready ∨ s.phase.ph = .data)
    ∧ (s.ctx.mode.isBlock = true → s.ctx.dir = .encrypt → s.ctx.pad = .none → l % C.bs = 0)
    ∧ (s.ctx.mode.isBlock = true → s.ctx.dir = .decrypt → l % C.bs = 0)
    ∧ (s.ctx.mode.isBlock = true → s.ctx.dir = .decrypt → s.ctx.pad ≠ .none → C.bs ≤ l)
    ∧ a + l ≤ Config.BUF_BYTES
    ∧ b + l + (if s.ctx.mode.isBlock = true ∧ s.ctx.dir = .encrypt then padLen C.bs s.ctx.pad l else 0) ≤ Config.BUF_BYTES

/-- MFINAL of an encrypting authenticated session passes its checks (44_mode_session.md R132). -/
def MfinalTagAccepted (s : State) (a b l : Nat) : Prop :=
  (s.phase.ph = .ready ∨ s.phase.ph = .data)
    ∧ (s.ctx.mode = .ccm → 0 < s.ctx.calen → s.phase.aadDone = true)
    ∧ (s.ctx.mode = .ccm → s.ctx.processed + l = s.ctx.cmlen)
    ∧ a + l ≤ Config.BUF_BYTES
    ∧ (s.ctx.tagpl = .combined → b + (l + s.ctx.taglen) ≤ Config.BUF_BYTES)
    ∧ (s.ctx.tagpl = .detached → b + l ≤ Config.BUF_BYTES ∧ s.tagaddr.toNat + s.ctx.taglen ≤ Config.BUF_BYTES)

/-- MFINAL of a decrypting authenticated session with `dlen` data bytes passes its checks; `l` counts a combined tag
(44_mode_session.md R132). -/
def MfinalVerifyAccepted (s : State) (a b l dlen : Nat) : Prop :=
  (s.phase.ph = .ready ∨ s.phase.ph = .data)
    ∧ (s.ctx.mode = .ccm → 0 < s.ctx.calen → s.phase.aadDone = true)
    ∧ (s.ctx.mode = .ccm → s.ctx.processed + dlen = s.ctx.cmlen)
    ∧ (s.ctx.tagpl = .combined → l = dlen + s.ctx.taglen)
    ∧ (s.ctx.tagpl = .detached → l = dlen ∧ s.tagaddr.toNat + s.ctx.taglen ≤ Config.BUF_BYTES)
    ∧ a + l ≤ Config.BUF_BYTES ∧ b + dlen ≤ Config.BUF_BYTES

/-- A length that MPROC refuses (44_mode_session.md R131, 60_exceptions.md R186). -/
def MprocLengthIllegal (C : Cipher) (s : State) (l : Nat) : Prop :=
  l % (if s.ctx.mode = .cfb ∧ s.ctx.seg = .byte then 1 else C.bs) ≠ 0
    ∨ (s.ctx.mode = .ccm ∧ s.ctx.cmlen < s.ctx.processed + l)

/-- MFINAL's data length, without a combined tag to verify (44_mode_session.md R132). -/
def mfinalData (c : Ctx) (l : Nat) : Nat :=
  if c.mode.isAuth = true ∧ c.dir = .decrypt ∧ c.tagpl = .combined then l - c.taglen else l

/-- A length that MFINAL refuses, check by check as R132 lists them (60_exceptions.md R186). -/
def MfinalLengthIllegal (C : Cipher) (s : State) (l : Nat) : Prop :=
  (s.ctx.mode.isBlock = true ∧ s.ctx.dir = .encrypt ∧ s.ctx.pad = .none ∧ l % C.bs ≠ 0)
    ∨ (s.ctx.mode.isBlock = true ∧ s.ctx.dir = .decrypt ∧ l % C.bs ≠ 0)
    ∨ (s.ctx.mode.isBlock = true ∧ s.ctx.dir = .decrypt ∧ s.ctx.pad ≠ .none ∧ l < C.bs)
    ∨ (s.ctx.mode.isAuth = true ∧ s.ctx.dir = .decrypt ∧ s.ctx.tagpl = .combined ∧ l < s.ctx.taglen)
    ∨ (s.ctx.mode = .ccm ∧ s.ctx.processed + mfinalData s.ctx l ≠ s.ctx.cmlen)

/-- A region of MFINAL lies outside BUF: the input, the most it could write, or a detached tag (44_mode_session.md R132). -/
def MfinalBoundsIllegal (C : Cipher) (s : State) (a b l : Nat) : Prop :=
  Config.BUF_BYTES < a + l
    ∨ Config.BUF_BYTES < b + (mfinalData s.ctx l
        + (if s.ctx.mode.isBlock = true ∧ s.ctx.dir = .encrypt then padLen C.bs s.ctx.pad l else 0)
        + (if s.ctx.mode.isAuth = true ∧ s.ctx.dir = .encrypt ∧ s.ctx.tagpl = .combined then s.ctx.taglen else 0))
    ∨ (s.ctx.mode.isAuth = true ∧ s.ctx.tagpl = .detached ∧ Config.BUF_BYTES < s.tagaddr.toNat + s.ctx.taglen)

/-- The address of the received tag of a decryption with `dlen` data bytes at `a` (44_mode_session.md R132). -/
def receivedTagAddr (s : State) (a dlen : Nat) : Nat :=
  match s.ctx.tagpl with
  | .combined => a + dlen
  | .detached => s.tagaddr.toNat

/-- Every register value is below 2^(W·MAXW) (10_state.md R25). -/
def RegsBounded (s : State) : Prop := ∀ r : Reg, s.regs[r.val].value < Config.CAPACITY

/-- At most CQ_DEPTH commands are queued (10_state.md R51), and none while ERR = 1 (60_exceptions.md R195). -/
def QueueLegal (s : State) : Prop := s.queue.length ≤ Config.CQ_DEPTH ∧ (s.err ≠ none → s.queue = [])

/-- The reserved bits of MCFG and TAGADDR are 0 (10_state.md R40, R41), and OUTLEN never exceeds BUF. -/
def CsrsLegal (s : State) : Prop :=
  s.mcfg.toNat < 2 ^ 14 ∧ s.tagaddr.toNat < 2 ^ 16 ∧ s.outlen.toNat ≤ Config.BUF_BYTES

/-- BUF is in its canonical form. -/
def BufLegal (s : State) : Prop := s.buf.wf

/-- The session flags of PHASE agree with its phase and its mode (10_state.md R45, R47): without a session everything is
0; a running session has neither failed nor verified a tag; TAGOK marks a DONE session of an authenticated mode; a FAILED
session has exactly the flag of the one fault that ended it. -/
def PhaseLegal (p : PhaseReg) : Prop :=
  (p.ph = .idle → p = PhaseReg.zero)
    ∧ (p.tagOk = true ↔ p.ph = .done ∧ p.smode.isAuth = true)
    ∧ (p.aadDone = true → p.smode.isAuth = true)
    ∧ (p.ph = .failed → p.authFail.toNat + p.cipherFail.toNat + p.padFail.toNat = 1)
    ∧ (p.ph ≠ .failed → p.authFail = false ∧ p.cipherFail = false ∧ p.padFail = false)
    ∧ (p.authFail = true → p.smode.isAuth = true ∧ p.sdir = .decrypt)
    ∧ (p.padFail = true → p.smode.isBlock = true ∧ p.sdir = .decrypt)

/-- The context of a running session is one that MINIT accepts: a legal configuration (44_mode_session.md R123), and for
CCM a nonce and lengths that fit each other and data within the message length (R124, R129, R131). -/
def SessionLegal (C : Cipher) (c : Ctx) : Prop :=
  configLegal C c c.calen = true
    ∧ (c.mode = .ccm →
        c.q + c.N.length = 15 ∧ 7 ≤ c.N.length ∧ c.N.length ≤ 13 ∧ c.calen ≤ 65535 ∧ c.cmlen < 2 ^ (8 * c.q)
          ∧ c.processed ≤ c.cmlen)

/-- The invariant of MOE-BAU. -/
structure Inv (s : State) : Prop where
  regs : RegsBounded s
  queue : QueueLegal s
  csrs : CsrsLegal s
  buf : BufLegal s
  phase : PhaseLegal s.phase
  copies : s.phase.smode = s.ctx.mode ∧ s.phase.sdir = s.ctx.dir
  session : s.phase.running = true → SessionLegal Config.cipher s.ctx

end Sys2Proof.Machine
end

