-- ==== Sys2Proof/Certificates/Slice0/Obligations.lean ====
section
/-! DEFINITION. The statements for the provers. A command's premise `s.queue = w :: rest` says that its word `w` is at the
head of the queue (40_control.md R89). A result stated as one record update of `s` says the frame with it: every field the
update does not name is unchanged. -/

open Sys2Proof Sys2Proof.Machine

/-! ## Steps, decoding and reset -/

/-- R89: the engine runs the decoded command at the head of the queue, as an event of the host's list or when that list is
empty; with an empty queue it does nothing; a word that does not decode raises its decode fault and nothing else changes.
The host's list is the model's own way to order events (log 2). -/
def Obligations.StepRunsDecodedCommand : Prop :=
  (∀ (s : State) (w : Word64) (rest : List Word64) (i : Instr), s.queue = w :: rest → decode w = .ok i →
    (s.host = [] → step s = exec i s) ∧ (∀ es, s.host = .engine :: es → step s = exec i { s with host := es }))
  ∧ (∀ (s : State) (w : Word64) (rest : List Word64) (c : FaultCode), s.queue = w :: rest → s.host = [] →
      decode w = .error c → step s = .next (s.faulted w c))
  ∧ (∀ s : State, s.queue = [] → s.host = [] → step s = .next s)

/-- R84, R178: exactly the 228 unallocated opcodes are ILLEGAL_OPCODE, whatever the other bits, and such a command changes
nothing but the fault registers; only the word 0 is a NOP. -/
def Obligations.UnallocatedOpcodesFault : Prop :=
  (∀ w : Word64, decode w = .error .illegalOpcode ↔
    (0x02 ≤ bits w 7 0 ∧ bits w 7 0 ≤ 0x0F) ∨ (0x15 ≤ bits w 7 0 ∧ bits w 7 0 ≤ 0x1F)
      ∨ (0x26 ≤ bits w 7 0 ∧ bits w 7 0 ≤ 0x2F) ∨ (0x3B ≤ bits w 7 0 ∧ bits w 7 0 ≤ 0x3F) ∨ 0x44 ≤ bits w 7 0)
  ∧ (∀ w : Word64, decode w = .ok .nop ↔ w = 0)
  ∧ (∀ (s : State) (w : Word64) (rest : List Word64), s.queue = w :: rest → s.host = [] →
      decode w = .error .illegalOpcode → step s = .next (s.faulted w .illegalOpcode))

/-- R85, R179: a word decodes iff it matches a row of the opcode table, and it matches at most one row; what it decodes to is
well formed and encodes to that word, so no bit of a word is dropped. A word whose opcode is that of a row but that matches no
row is RESERVED_FIELD, and no other word is. -/
def Obligations.DecodeMatchesOpcodeTable : Prop :=
  (∀ w : Word64, (∃ i, decode w = .ok i) ↔ ∃ p ∈ opcodeRows, w &&& p.2 = p.1)
  ∧ (opcodeRows.Pairwise fun p q => ∀ w : Word64, ¬(w &&& p.2 = p.1 ∧ w &&& q.2 = q.1))
  ∧ (∀ (w : Word64) (i : Instr), decode w = .ok i → encode i = w ∧ i.wellFormed = true)
  ∧ (∀ w : Word64, decode w = .error .reservedField ↔
      (∃ p ∈ opcodeRows, bits p.1 7 0 = bits w 7 0) ∧ ∀ p ∈ opcodeRows, w &&& p.2 ≠ p.1)

/-- Decoding the encoding of any well-formed command gives it back, with every operand (R73 to R83). -/
def Obligations.DecodeInvertsEncode : Prop := ∀ i : Instr, i.wellFormed = true → decode (encode i) = .ok i

/-- R88: the six worked encodings decode to their commands. -/
def Obligations.WorkedEncodingsDecode : Prop :=
  decode 0x0000000000043530#64 = .ok (.badd 5 3 4)
  ∧ decode 0x0000000000badc34#64 = .ok (.bdiv 12 13 10 11)
  ∧ decode 0x0000000000210001#64 = .ok (.wcsr 0 0x21#32)
  ∧ decode 0x0010000000000010#64 = .ok (.minit 0 16)
  ∧ decode 0x0010080004000013#64 = .ok (.mfinal 0x400 0x800 16)
  ∧ decode 0x00000000003d0120#64 = .ok (.bldi 1 61)

/-- R205: after power-on reset with any contents of BUF, every register, flag, CSR, host register and context field has the
table's value; ID, PARAM and PARAM2 are constants. -/
def Obligations.PowerOnValues : Prop :=
  ∀ (C : Cipher) (bufInit : Memory),
    (∀ r : Reg, (State.powerOn bufInit).lacks r)
    ∧ (State.powerOn bufInit).flags = { z := false, lt := false, eq := false, gt := false, nr := false, pp := false }
    ∧ (∀ n < 8, hostReadAt C (State.powerOn bufInit) (0x40 + 4 * n) = 0)
    ∧ (State.powerOn bufInit).phase = PhaseReg.zero ∧ (State.powerOn bufInit).ctx = Ctx.zero
    ∧ (State.powerOn bufInit).queue = [] ∧ hostReadAt C (State.powerOn bufInit) 0x14 = 0
    ∧ (State.powerOn bufInit).cmdlat = 0
    ∧ hostReadAt C (State.powerOn bufInit) 0x0C = 0
    ∧ hostReadAt C (State.powerOn bufInit) 0x10 = 0x00000002#32
    ∧ (∀ off ∈ [0x18, 0x1C, 0x20, 0x24], hostReadAt C (State.powerOn bufInit) off = 0)
    ∧ irq (State.powerOn bufInit) = false
    ∧ (State.powerOn bufInit).buf = bufInit
    ∧ (∀ s : State, ∀ off ∈ [0x00, 0x04, 0x08], hostReadAt C s off = hostReadAt C (State.powerOn bufInit) off)

/-- The invariant holds after power-on reset with any canonical contents of BUF, and at the model's reset state (log 4). -/
def Obligations.ResetSatisfiesInvariant : Prop :=
  (∀ bufInit : Memory, bufInit.wf → Inv (State.powerOn bufInit)) ∧ Inv State.reset

/-- Every step, of the engine or of the host, keeps the invariant: registers below the capacity, at most CQ_DEPTH commands and
none while ERR = 1, reserved CSR bits 0, BUF canonical, PHASE consistent, a running session legal. -/
def Obligations.StepKeepsInvariant : Prop := ∀ s t : State, Inv s → step s = .next t → Inv t

/-! ## Faults -/

/-- R90, R195, with the "raised by" column of R177: a command either completes, leaving the queue and counting once, with the
fault registers as they were; or it takes one fault among those the table gives it, with ERRCMD, ERRIDX and an empty queue. -/
def Obligations.ExecCompletesOrTakesOneFault : Prop :=
  ∀ (i : Instr) (s : State) (w : Word64) (rest : List Word64), s.queue = w :: rest →
    ∃ t, exec i s = .next t ∧
      ((t.queue = rest ∧ t.cmdcnt = s.cmdcnt + 1 ∧ t.done = (s.done || rest.isEmpty) ∧ t.err = s.err
          ∧ t.errcmd = s.errcmd ∧ t.erridx = s.erridx)
        ∨ ∃ c ∈ faultsOf i, t.queue = [] ∧ t.cmdcnt = s.cmdcnt ∧ t.done = s.done ∧ t.err = some c ∧ t.errcmd = w
            ∧ t.erridx = s.cmdcnt)

/-- R91: a fault other than CIPHER_FAIL, PADDING and AUTH_FAIL leaves every state element but those of the fault entry. -/
def Obligations.PreCheckFaultsChangeNothingElse : Prop :=
  ∀ (i : Instr) (s t : State) (w : Word64) (rest : List Word64) (c : FaultCode), s.queue = w :: rest → s.err = none →
    exec i s = .next t → t.err = some c → isCompletionFault c = false → t = s.faulted w c

/-- R187, R188, R189, on a collaborator `C`: a completion fault of MINIT, MAAD, MPROC or MFINAL ends the session FAILED with its
own flag; PADDING and AUTH_FAIL write no byte of BUF and leave OUTLEN 0; no big register, flag, configuration CSR or host
register changes before the fault entry. -/
def Obligations.CompletionFaultsFailTheSession : Prop :=
  ∀ (C : Cipher) (s t : State) (a b l : Nat) (c : FaultCode),
    minit C a l s = .raise c t ∨ maad C a l s = .raise c t ∨ mproc C a b l s = .raise c t ∨ mfinal C a b l s = .raise c t →
    isCompletionFault c = true →
      t.phase.ph = .failed
      ∧ (c = .cipherFail → t.phase.cipherFail = true)
      ∧ (c = .padding → t.phase.padFail = true ∧ t.buf = s.buf ∧ t.outlen = 0)
      ∧ (c = .authFail → t.phase.authFail = true ∧ t.buf = s.buf ∧ t.outlen = 0)
      ∧ { t with buf := s.buf, outlen := s.outlen, phase := s.phase, ctx := s.ctx } = s

/-- R96, R182: a command with an invalid source register raises REG_UNINIT, before any other check of its own, and changes
nothing else. -/
def Obligations.InvalidSourceRaisesRegUninit : Prop :=
  ∀ (i : Instr) (s : State) (w : Word64) (rest : List Word64), s.queue = w :: rest → (∃ r ∈ sourceRegs i, s.lacks r) →
    exec i s = .next (s.faulted w .regUninit)

/-- R183, R47: the phases in which MINIT, MAAD, MPROC and MFINAL raise SEQUENCE, changing nothing else. -/
def Obligations.PhaseForbidsCommand : Prop :=
  ∀ (s : State) (w : Word64) (rest : List Word64) (a b l : Nat), s.queue = w :: rest →
    ((s.phase.ph = .ready ∨ s.phase.ph = .data) → exec (.minit a l) s = .next (s.faulted w .sequence))
    ∧ ((s.phase.ph ≠ .ready ∨ s.phase.aadDone = true ∨ (s.ctx.mode ≠ .gcm ∧ s.ctx.mode ≠ .ccm ∧ s.ctx.mode ≠ .ocb)) →
        exec (.maad a l) s = .next (s.faulted w .sequence))
    ∧ (((s.phase.ph ≠ .ready ∧ s.phase.ph ≠ .data) ∨ (s.ctx.mode = .ccm ∧ 0 < s.ctx.calen ∧ s.phase.aadDone = false)) →
        exec (.mproc a b l) s = .next (s.faulted w .sequence) ∧ exec (.mfinal a b l) s = .next (s.faulted w .sequence))

/-! ## Frames -/

/-- R25, R28, R98: a BAU command changes no register but its destinations, no flag but those of its rule, no byte of BUF
unless it is BST, and nothing of the mode engine, the host's registers or the configuration CSRs. -/
def Obligations.BauCommandFrame : Prop :=
  ∀ (i : Instr) (s t : State), isBau i = true → exec i s = .next t →
    (∀ r : Reg, r ∉ destRegs i → t.regs[r.val] = s.regs[r.val])
    ∧ ((∀ r a l, i ≠ .bst r a l) → t.buf = s.buf)
    ∧ (destRegs i = [] → t.flags.z = s.flags.z)
    ∧ ((∀ rs1 rs2, i ≠ .bcmp rs1 rs2) → t.flags.lt = s.flags.lt ∧ t.flags.eq = s.flags.eq ∧ t.flags.gt = s.flags.gt)
    ∧ ((∀ rd rs1 rs2, i ≠ .binv rd rs1 rs2) → t.flags.nr = s.flags.nr)
    ∧ ((∀ rs1 rs2, i ≠ .bsprp rs1 rs2) → t.flags.pp = s.flags.pp)
    ∧ t.mcfg = s.mcfg ∧ t.tagaddr = s.tagaddr ∧ t.ccmMlen = s.ccmMlen ∧ t.ccmAlen = s.ccmAlen ∧ t.outlen = s.outlen
    ∧ t.phase = s.phase ∧ t.ctx = s.ctx ∧ t.cmdlat = s.cmdlat ∧ t.enables = s.enables ∧ t.ovf = s.ovf
    ∧ t.host = s.host ∧ t.rdata = s.rdata

/-- R25: control and mode-engine commands neither read nor write big registers or FLAGS: with other registers and flags they do
the same, and leave those as they were. -/
def Obligations.OtherCommandsIgnoreBigRegisters : Prop :=
  ∀ (i : Instr) (s t : State) (R : Vector BigReg 16) (F : Flags), isBau i = false → exec i s = .next t →
    t.regs = s.regs ∧ t.flags = s.flags
    ∧ exec i { s with regs := R, flags := F } = .next { t with regs := R, flags := F }

/-- R49: the mode context is hidden: with another context the host reads the same everywhere, and every command but those of
the mode engine does the same and leaves the context alone. -/
def Obligations.ModeContextIsHidden : Prop :=
  (∀ (C : Cipher) (s : State) (c : Ctx) (off : Nat), hostReadAt C { s with ctx := c } off = hostReadAt C s off)
  ∧ (∀ (i : Instr) (s t : State) (c : Ctx), isMoe i = false → exec i s = .next t →
      t.ctx = s.ctx ∧ exec i { s with ctx := c } = .next { t with ctx := c })

/-- R131, R132: MINIT, MAAD and MRESET store nothing; MPROC stores only in `[B, B+L)`; MFINAL only in its output region, as
long as the most it could write, and for a detached tag of an encryption at TAGADDR. No mode-engine command changes the
configuration CSRs or the host's registers. -/
def Obligations.ModeEngineStoresOnlyItsOutput : Prop :=
  ∀ (s t : State) (a b l : Nat), s.buf.wf →
    (exec (.minit a l) s = .next t ∨ exec (.maad a l) s = .next t ∨ exec .mreset s = .next t → t.buf = s.buf)
    ∧ (exec (.mproc a b l) s = .next t → ∀ x, (x < b ∨ b + l ≤ x) → t.buf.read x = s.buf.read x)
    ∧ (exec (.mfinal a b l) s = .next t →
        ∀ x, (x < b ∨ b + finalOutMax Config.cipher s.ctx l ≤ x) →
          ((s.ctx.mode.isAuth = true ∧ s.ctx.dir = .encrypt ∧ s.ctx.tagpl = .detached) →
            (x < s.tagaddr.toNat ∨ s.tagaddr.toNat + s.ctx.taglen ≤ x)) →
          t.buf.read x = s.buf.read x)
    ∧ (∀ i, isMoe i = true → exec i s = .next t →
        t.mcfg = s.mcfg ∧ t.tagaddr = s.tagaddr ∧ t.ccmMlen = s.ccmMlen ∧ t.ccmAlen = s.ccmAlen ∧ t.cmdlat = s.cmdlat
          ∧ t.enables = s.enables ∧ t.ovf = s.ovf ∧ t.host = s.host ∧ t.rdata = s.rdata)

/-! ## Control commands -/

/-- R93: NOP does nothing but be counted; its word is 0, and opcode 0 with another bit set is RESERVED_FIELD. -/
def Obligations.NopIsOnlyCounted : Prop :=
  (∀ (s : State) (w : Word64) (rest : List Word64), s.queue = w :: rest → exec .nop s = .next (s.completed rest))
  ∧ (∀ w : Word64, bits w 7 0 = 0 → decode w = if w = 0 then .ok .nop else .error .reservedField)

/-- R94: WCSR writes CSR 0 to 3 and nothing else, in every phase; another number is ILLEGAL_CSR; a reserved bit of an MCFG or
TAGADDR value is RESERVED_FIELD; its word holds the number in bits 15:8 and the value in bits 47:16, bits 63:48 reserved. -/
def Obligations.WcsrWritesOneCsr : Prop :=
  ∀ (s : State) (w : Word64) (rest : List Word64) (n : Nat) (v : Word32), s.queue = w :: rest →
    (v.toNat < 2 ^ 14 → exec (.wcsr 0 v) s = .next ({ s with mcfg := v }.completed rest))
    ∧ (v.toNat < 2 ^ 16 → exec (.wcsr 1 v) s = .next ({ s with tagaddr := v }.completed rest))
    ∧ exec (.wcsr 2 v) s = .next ({ s with ccmMlen := v }.completed rest)
    ∧ exec (.wcsr 3 v) s = .next ({ s with ccmAlen := v }.completed rest)
    ∧ (3 < n → exec (.wcsr n v) s = .next (s.faulted w .illegalCsr))
    ∧ (2 ^ 14 ≤ v.toNat → exec (.wcsr 0 v) s = .next (s.faulted w .reservedField))
    ∧ (2 ^ 16 ≤ v.toNat → exec (.wcsr 1 v) s = .next (s.faulted w .reservedField))
    ∧ (bits w 7 0 = 1 → decode w =
        if bits w 63 48 = 0 then .ok (.wcsr (bits w 15 8) (BitVec.ofNat 32 (bits w 47 16))) else .error .reservedField)

/-! ## BAU: data movement -/

/-- R101: BLD loads the big-endian integer of its region and sets Z; a region out of bounds is BUF_BOUNDS; a value of
2^(W·MAXW) or more is CAPACITY. -/
def Obligations.BldLoadsBigEndian : Prop :=
  ∀ (s : State) (w : Word64) (rest : List Word64) (r : Reg) (a l v : Nat), s.queue = w :: rest →
    (Config.BUF_BYTES < a + l → exec (.bld r a l) s = .next (s.faulted w .bufBounds))
    ∧ (a + l ≤ Config.BUF_BYTES → v < 256 ^ l → (∀ k < l, v / 256 ^ (l - 1 - k) % 256 = (s.buf.read (a + k)).toNat) →
        (v < Config.CAPACITY → exec (.bld r a l) s = .next ((s.withResult r v).completed rest))
        ∧ (Config.CAPACITY ≤ v → exec (.bld r a l) s = .next (s.faulted w .capacity)))

/-- R102: BST writes the value of its register big-endian in exactly L bytes, every other byte, register and flag unchanged;
BUF_BOUNDS before OPERAND_RANGE. -/
def Obligations.BstStoresBigEndian : Prop :=
  ∀ (s : State) (w : Word64) (rest : List Word64) (r : Reg) (a l v : Nat), s.queue = w :: rest → s.buf.wf → s.holds r v →
    (Config.BUF_BYTES < a + l → exec (.bst r a l) s = .next (s.faulted w .bufBounds))
    ∧ (a + l ≤ Config.BUF_BYTES → 256 ^ l ≤ v → exec (.bst r a l) s = .next (s.faulted w .operandRange))
    ∧ (a + l ≤ Config.BUF_BYTES → v < 256 ^ l →
        ∃ m : Memory, exec (.bst r a l) s = .next ({ s with buf := m }.completed rest)
          ∧ (∀ k < l, (m.read (a + k)).toNat = v / 256 ^ (l - 1 - k) % 256)
          ∧ (∀ x, (x < a ∨ a + l ≤ x) → m.read x = s.buf.read x))

/-- R100, R103, R104, R105: BLDI writes its immediate, BMOV the value of its source, BGETW word idx of it; BSETW replaces word
idx, with OPERAND_RANGE for a value that is no word and CAPACITY for a result that does not fit. -/
def Obligations.MovesAndWordAccess : Prop :=
  ∀ (s : State) (w : Word64) (rest : List Word64) (rd rs1 : Reg) (imm idx v old : Nat), s.queue = w :: rest →
    exec (.bldi rd imm) s = .next ((s.withResult rd imm).completed rest)
    ∧ (s.holds rs1 v →
        exec (.bmov rd rs1) s = .next ((s.withResult rd v).completed rest)
        ∧ exec (.bgetw rd rs1 idx) s = .next ((s.withResult rd (v / 2 ^ (64 * idx) % 2 ^ 64)).completed rest)
        ∧ (s.holds rd old →
            (2 ^ 64 ≤ v → exec (.bsetw rd rs1 idx) s = .next (s.faulted w .operandRange))
            ∧ (v < 2 ^ 64 → ∀ r, r = old - old / 2 ^ (64 * idx) % 2 ^ 64 * 2 ^ (64 * idx) + v * 2 ^ (64 * idx) →
                (r < Config.CAPACITY → exec (.bsetw rd rs1 idx) s = .next ((s.withResult rd r).completed rest))
                ∧ (Config.CAPACITY ≤ r → exec (.bsetw rd rs1 idx) s = .next (s.faulted w .capacity)))))

/-! ## BAU: arithmetic and logic -/

/-- R106, R107, R108, R109: the exact sum, difference and products, or CAPACITY, UNDERFLOW, OPERAND_RANGE. -/
def Obligations.AddSubtractMultiply : Prop :=
  ∀ (s : State) (w : Word64) (rest : List Word64) (rd rs1 rs2 : Reg) (a b : Nat), s.queue = w :: rest →
    s.holds rs1 a → s.holds rs2 b →
    (a + b < Config.CAPACITY → exec (.badd rd rs1 rs2) s = .next ((s.withResult rd (a + b)).completed rest))
    ∧ (Config.CAPACITY ≤ a + b → exec (.badd rd rs1 rs2) s = .next (s.faulted w .capacity))
    ∧ (b ≤ a → exec (.bsub rd rs1 rs2) s = .next ((s.withResult rd (a - b)).completed rest))
    ∧ (a < b → exec (.bsub rd rs1 rs2) s = .next (s.faulted w .underflow))
    ∧ (b < 2 ^ 64 → a * b < Config.CAPACITY →
        exec (.bmulw rd rs1 rs2) s = .next ((s.withResult rd (a * b)).completed rest))
    ∧ (b < 2 ^ 64 → Config.CAPACITY ≤ a * b → exec (.bmulw rd rs1 rs2) s = .next (s.faulted w .capacity))
    ∧ (2 ^ 64 ≤ b → exec (.bmulw rd rs1 rs2) s = .next (s.faulted w .operandRange))
    ∧ (a * b < Config.CAPACITY → exec (.bmul rd rs1 rs2) s = .next ((s.withResult rd (a * b)).completed rest))
    ∧ (Config.CAPACITY ≤ a * b → exec (.bmul rd rs1 rs2) s = .next (s.faulted w .capacity))

/-- R110: BDIV gives the q and r with `q·b + r = a` and `r < b`; the remainder is written second and decides Z; a zero divisor
is DIV_ZERO. -/
def Obligations.BdivQuotientAndRemainder : Prop :=
  ∀ (s : State) (w : Word64) (rest : List Word64) (rd rs1 rs2 rs3 : Reg) (a b q r : Nat), s.queue = w :: rest →
    s.holds rs1 a → s.holds rs2 b →
    (b = 0 → exec (.bdiv rd rs1 rs2 rs3) s = .next (s.faulted w .divZero))
    ∧ (q * b + r = a → r < b →
        exec (.bdiv rd rs1 rs2 rs3) s = .next (((s.withReg rd q).withResult rs3 r).completed rest))

/-- R111 to R115: BSHL multiplies by 2^n or raises CAPACITY, never dropping a bit; BSHR divides by 2^n; BAND, BOR and BXOR
compute every bit. -/
def Obligations.ShiftsAndLogic : Prop :=
  ∀ (s : State) (w : Word64) (rest : List Word64) (rd rs1 rs2 : Reg) (a b n : Nat), s.queue = w :: rest → s.holds rs1 a →
    (a * 2 ^ n < Config.CAPACITY → exec (.bshl rd rs1 n) s = .next ((s.withResult rd (a * 2 ^ n)).completed rest))
    ∧ (Config.CAPACITY ≤ a * 2 ^ n → exec (.bshl rd rs1 n) s = .next (s.faulted w .capacity))
    ∧ exec (.bshr rd rs1 n) s = .next ((s.withResult rd (a / 2 ^ n)).completed rest)
    ∧ (s.holds rs2 b →
        (∃ r, (∀ k, r.testBit k = (a.testBit k && b.testBit k))
          ∧ exec (.band rd rs1 rs2) s = .next ((s.withResult rd r).completed rest))
        ∧ (∃ r, (∀ k, r.testBit k = (a.testBit k || b.testBit k))
          ∧ exec (.bor rd rs1 rs2) s = .next ((s.withResult rd r).completed rest))
        ∧ (∃ r, (∀ k, r.testBit k = (a.testBit k ^^ b.testBit k))
          ∧ exec (.bxor rd rs1 rs2) s = .next ((s.withResult rd r).completed rest)))

/-- R116: BCMP sets exactly one of LT, EQ and GT, and writes nothing else. -/
def Obligations.BcmpSetsOneFlag : Prop :=
  ∀ (s : State) (w : Word64) (rest : List Word64) (rs1 rs2 : Reg) (a b : Nat), s.queue = w :: rest →
    s.holds rs1 a → s.holds rs2 b →
    (a < b → exec (.bcmp rs1 rs2) s =
        .next ({ s with flags := { s.flags with lt := true, eq := false, gt := false } }.completed rest))
    ∧ (a = b → exec (.bcmp rs1 rs2) s =
        .next ({ s with flags := { s.flags with lt := false, eq := true, gt := false } }.completed rest))
    ∧ (b < a → exec (.bcmp rs1 rs2) s =
        .next ({ s with flags := { s.flags with lt := false, eq := false, gt := true } }.completed rest))

/-! ## BAU: modular arithmetic -/

/-- R117, R118: BPOW writes `(b^e) mod m`, and a zero modulus is DIV_ZERO; BGCD writes the common divisor of both operands that
every other common divisor divides, so gcd(a, 0) = a and gcd(0, 0) = 0. -/
def Obligations.PowerAndGreatestDivisor : Prop :=
  ∀ (s : State) (w : Word64) (rest : List Word64) (rd rs1 rs2 rs3 : Reg) (a b m : Nat), s.queue = w :: rest →
    s.holds rs1 a → s.holds rs2 b →
    (s.holds rs3 m → m ≠ 0 → exec (.bpow rd rs1 rs2 rs3) s = .next ((s.withResult rd (a ^ b % m)).completed rest))
    ∧ (s.holds rs3 0 → exec (.bpow rd rs1 rs2 rs3) s = .next (s.faulted w .divZero))
    ∧ ∃ g, g ∣ a ∧ g ∣ b ∧ (∀ d, d ∣ a → d ∣ b → d ∣ g)
        ∧ exec (.bgcd rd rs1 rs2) s = .next ((s.withResult rd g).completed rest)

/-- R119: BINV writes the r below m with `(a·r) mod m = 1` and clears NR and Z; without one it only sets NR; a modulus of 0 or
1 is OPERAND_RANGE. -/
def Obligations.BinvInverse : Prop :=
  ∀ (s : State) (w : Word64) (rest : List Word64) (rd rs1 rs2 : Reg) (a m : Nat), s.queue = w :: rest →
    s.holds rs1 a → s.holds rs2 m →
    (m ≤ 1 → exec (.binv rd rs1 rs2) s = .next (s.faulted w .operandRange))
    ∧ (1 < m → Nat.gcd a m ≠ 1 →
        exec (.binv rd rs1 rs2) s = .next ({ s with flags := { s.flags with nr := true } }.completed rest))
    ∧ (1 < m → Nat.gcd a m = 1 →
        ∃ r, r < m ∧ a * r % m = 1
          ∧ exec (.binv rd rs1 rs2) s =
              .next ({ s.withReg rd r with flags := { s.flags with z := false, nr := false } }.completed rest))

/-- R120: BSPRP sets PP iff `a^d ≡ 1` or `a^(d·2^j) ≡ −1` modulo n for some j below s, where `n − 1 = d·2^s` with d odd, and
writes nothing else; a candidate that is even or below 3 or a base of 0 or 1 is OPERAND_RANGE. -/
def Obligations.BsprpStrongTest : Prop :=
  ∀ (s : State) (w : Word64) (rest : List Word64) (rs1 rs2 : Reg) (n a d k : Nat), s.queue = w :: rest →
    s.holds rs1 n → s.holds rs2 a →
    (n ≤ 2 ∨ n % 2 = 0 ∨ a ≤ 1 → exec (.bsprp rs1 rs2) s = .next (s.faulted w .operandRange))
    ∧ (2 < n → n % 2 = 1 → 1 < a → n - 1 = d * 2 ^ k → d % 2 = 1 →
        ∃ pp : Bool, (pp = true ↔ a ^ d % n = 1 ∨ ∃ j < k, a ^ (d * 2 ^ j) % n = n - 1)
          ∧ exec (.bsprp rs1 rs2) s = .next ({ s with flags := { s.flags with pp := pp } }.completed rest))

/-! ## Mode engine: sessions -/

/-- R123: MINIT outside a running session raises BAD_CONFIG, changing nothing else, exactly when one of the eight conditions on
MCFG holds. -/
def Obligations.ConfigurationLegality : Prop :=
  ∀ (s : State) (w : Word64) (rest : List Word64) (a l : Nat), s.queue = w :: rest → s.phase.ph ≠ .ready →
    s.phase.ph ≠ .data →
    (exec (.minit a l) s = .next (s.faulted w .badConfig) ↔ ConfigIllegal Config.cipher.bs s.mcfg s.ccmAlen.toNat)

/-- R124, R129 to R132, R181, R185, R186, on a collaborator `C`, in the order of each command's checks: once its phase (and for
MINIT its configuration) allows the command, MINIT raises BAD_NONCE for an illegal nonce length, then LENGTH for a CCM message
length that does not fit, then BUF_BOUNDS; MAAD raises LENGTH for a CCM AAD of another length than CCM_ALEN, then BUF_BOUNDS;
MPROC and MFINAL raise LENGTH for an illegal data length, then BUF_BOUNDS for a region outside BUF. Each leaves the state as it
was. -/
def Obligations.NonceLengthAndBoundsChecks : Prop :=
  (∀ (C : Cipher) (s : State) (a l : Nat), s.phase.ph ≠ .ready → s.phase.ph ≠ .data →
    ¬ConfigIllegal C.bs s.mcfg s.ccmAlen.toNat →
    (NonceIllegal C.bs (bits s.mcfg 3 0) l → minit C a l s = .raise .badNonce s)
    ∧ (¬NonceIllegal C.bs (bits s.mcfg 3 0) l →
        (bits s.mcfg 3 0 = 7 ∧ 2 ^ (8 * (15 - l)) ≤ s.ccmMlen.toNat → minit C a l s = .raise .length s)
        ∧ (¬(bits s.mcfg 3 0 = 7 ∧ 2 ^ (8 * (15 - l)) ≤ s.ccmMlen.toNat) → Config.BUF_BYTES < a + l →
            minit C a l s = .raise .bufBounds s)))
  ∧ (∀ (C : Cipher) (s : State) (a l : Nat), s.phase.ph = .ready → s.phase.aadDone = false → s.ctx.mode.isAuth = true →
      (s.ctx.mode = .ccm ∧ l ≠ s.ctx.calen → maad C a l s = .raise .length s)
      ∧ (¬(s.ctx.mode = .ccm ∧ l ≠ s.ctx.calen) → Config.BUF_BYTES < a + l → maad C a l s = .raise .bufBounds s))
  ∧ (∀ (C : Cipher) (s : State) (a b l : Nat), s.phase.ph = .ready ∨ s.phase.ph = .data →
      (s.ctx.mode = .ccm → 0 < s.ctx.calen → s.phase.aadDone = true) →
      (MprocLengthIllegal C s l → mproc C a b l s = .raise .length s)
      ∧ (¬MprocLengthIllegal C s l → Config.BUF_BYTES < a + l ∨ Config.BUF_BYTES < b + l →
          mproc C a b l s = .raise .bufBounds s)
      ∧ (MfinalLengthIllegal C s l → mfinal C a b l s = .raise .length s)
      ∧ (¬MfinalLengthIllegal C s l → MfinalBoundsIllegal C s a b l → mfinal C a b l s = .raise .bufBounds s))

/-- R129, R134: MINIT of ECB, CBC, PCBC, CFB, OFB or CTR with a legal configuration and nonce starts a session: the context is
zero but for the copies of MCFG and the IV in V or CTR, PHASE is READY with the mode and direction, OUTLEN is 0. -/
def Obligations.MinitStartsUnauthenticatedSession : Prop :=
  ∀ (s : State) (w : Word64) (rest : List Word64) (a l : Nat) (m : Mode) (p : Pad), s.queue = w :: rest →
    s.phase.ph ≠ .ready → s.phase.ph ≠ .data → m.isAuth = false →
    bits s.mcfg 3 0 = m.code → bits s.mcfg 6 5 = (match p with | .none => 0 | .pkcs7 => 1 | .zero => 2) →
    (p ≠ .none → m.isBlock = true) → (bits s.mcfg 7 7 = 1 → m = .cfb) → bits s.mcfg 13 8 = 0 →
    l = (if m = .ecb then 0 else Config.cipher.bs) → a + l ≤ Config.BUF_BYTES →
    exec (.minit a l) s =
      .next ((s.withSession
        { Ctx.zero with
          mode := m
          dir := if bits s.mcfg 4 4 = 0 then .encrypt else .decrypt
          pad := p
          seg := if bits s.mcfg 7 7 = 0 then .block else .byte
          V := if m = .cbc ∨ m = .pcbc ∨ m = .cfb ∨ m = .ofb then BitVec.ofNat 128 (be (s.buf.readBytes a l)) else 0
          CTR := if m = .ctr then BitVec.ofNat 128 (be (s.buf.readBytes a l)) else 0 }
        { PhaseReg.zero with ph := .ready, smode := m, sdir := if bits s.mcfg 4 4 = 0 then .encrypt else .decrypt }
        0).completed rest)

/-- R146, R154, R163: MINIT on a collaborator `C`, its checks passed and its two calls succeeding, starts a GCM, CCM or OCB
session: the context is zero but for the copies of MCFG and the values Init names, PHASE is READY, OUTLEN is 0. A 12-byte GCM
nonce gives J0 = N || 00000001, and another the GHASH of N, zero-padded, and its bit length; the OCB nonce block holds the tag
length, a 1 bit and N, and Stretch is Ktop followed by 64 bits of Ktop XOR Ktop shifted by a byte. -/
def Obligations.MinitStartsAuthenticatedSession : Prop :=
  ∀ (C : Cipher) (s : State) (a l : Nat) (c : Ctx) (n : Bytes) (e₁ e₂ : Block), s.phase.ph ≠ .ready → s.phase.ph ≠ .data →
    sessionConfig C s.mcfg s.ccmAlen.toNat = some c → nonceLegal C c.mode l = true → a + l ≤ Config.BUF_BYTES →
    n = s.buf.readBytes a l →
    (c.mode = .gcm → C.E 0 = some e₁ → C.E (gcmJ0 e₁ n) = some e₂ →
      minit C a l s = .ok (s.withSession { c with H := e₁, CB := gcmJ0 e₁ n, EJ0 := e₂ }
        { PhaseReg.zero with ph := .ready, smode := .gcm, sdir := c.dir } 0)
      ∧ (l = 12 → (gcmJ0 e₁ n).toNat = be n * 2 ^ 32 + 1)
      ∧ (l ≠ 12 → gcmJ0 e₁ n
          = ghashFold e₁ 0 (n ++ List.replicate ((16 - l % 16) % 16) 0#8 ++ blockBytes 16 (BitVec.ofNat 128 (8 * l)))))
    ∧ (c.mode = .ccm → s.ccmMlen.toNat < 2 ^ (8 * (15 - l)) →
        C.E (ccmB0 s.ccmAlen.toNat s.ccmMlen.toNat c.taglen n) = some e₁ → C.E (ccmA (15 - l) n 0) = some e₂ →
        minit C a l s = .ok (s.withSession
          { c with q := 15 - l, N := n, calen := s.ccmAlen.toNat, cmlen := s.ccmMlen.toNat, Y := e₁, S0 := e₂ }
          { PhaseReg.zero with ph := .ready, smode := .ccm, sdir := c.dir } 0))
    ∧ (c.mode = .ocb → C.E 0 = some e₁ → C.E (ocbNonce c.taglen n &&& ~~~63#128) = some e₂ →
        minit C a l s = .ok (s.withSession
          { c with Lstar := e₁, Ldollar := ocbDouble e₁
                   Off := (ocbStretch e₂ >>> (64 - (ocbNonce c.taglen n).toNat % 64)).truncate 128 }
          { PhaseReg.zero with ph := .ready, smode := .ocb, sdir := c.dir } 0)
        ∧ (ocbNonce c.taglen n).toNat = 8 * c.taglen % 128 * 2 ^ 121 + 2 ^ (8 * l) + be n
        ∧ (ocbStretch e₂).toNat = e₂.toNat * 2 ^ 64 + ((e₂.toNat / 2 ^ 64) ^^^ (e₂.toNat / 2 ^ 56 % 2 ^ 64)))

/-- R130, R147, R155, R164: MAAD of a READY session, its checks passed and no collaborator call failing, lets the mode absorb the
AAD and sets AADDONE; GCM folds it into X and calls no collaborator; CCM asks for CCM_ALEN bytes, and an empty AAD changes no
chain value; an empty OCB AAD hashes to 0. The AAD of CCM and of OCB on a collaborator `C`, with the
length prefix, the blocks and the chain of CCM, and the offsets, the sum and the padded last part of OCB's HASH. -/
def Obligations.MaadAbsorbs : Prop :=
  (∀ (s : State) (w : Word64) (rest : List Word64) (a l : Nat), s.queue = w :: rest → s.phase.ph = .ready →
    s.phase.aadDone = false → a + l ≤ Config.BUF_BYTES →
    (s.ctx.mode = .gcm → exec (.maad a l) s =
        .next ({ s with ctx := { s.ctx with X := ghashFold s.ctx.H s.ctx.X (s.buf.readBytes a l), alen := l }
                        phase := { s.phase with aadDone := true } }.completed rest))
    ∧ (s.ctx.mode = .ccm → s.ctx.calen = 0 → l = 0 → exec (.maad a l) s =
        .next ({ s with phase := { s.phase with aadDone := true } }.completed rest))
    ∧ (s.ctx.mode = .ocb → l = 0 → exec (.maad a l) s =
        .next ({ s with ctx := { s.ctx with HA := 0 }, phase := { s.phase with aadDone := true } }.completed rest))
    ∧ (s.ctx.mode = .ccm → l ≠ s.ctx.calen → exec (.maad a l) s = .next (s.faulted w .length))
    ∧ (∀ C y, s.ctx.mode = .ccm → 0 < l → l = s.ctx.calen →
        cbcMac C s.ctx.Y (paddedBlocks (ccmAadPrefix l ++ s.buf.readBytes a l)) = some y →
        maad C a l s = .ok { s with ctx := { s.ctx with Y := y }, phase := { s.phase with aadDone := true } })
    ∧ (∀ C h, s.ctx.mode = .ocb → ocbHash C s.ctx.Lstar s.ctx.Ldollar (s.buf.readBytes a l) = some h →
        maad C a l s = .ok { s with ctx := { s.ctx with HA := h }, phase := { s.phase with aadDone := true } }))
  ∧ (∀ n ≤ 65535, be (ccmAadPrefix n) = (if n < 0xFF00 then n else 0xFFFE * 2 ^ 32 + n)
      ∧ (ccmAadPrefix n).length = if n < 0xFF00 then 2 else 6)
  ∧ (paddedBlocks [] = [] ∧ ∀ x y : Bytes, (x.length = 16 → paddedBlocks (x ++ y) = BitVec.ofNat 128 (be x) :: paddedBlocks y)
      ∧ (0 < x.length → x.length < 16 → paddedBlocks x = [BitVec.ofNat 128 (be x * 256 ^ (16 - x.length))]))
  ∧ (∀ (C : Cipher) (n : Nat) (b y : Nat → Block), (∀ k < n, C.E (y k ^^^ b k) = some (y (k + 1))) →
      cbcMac C (y 0) ((List.range n).map b) = some (y n))
  ∧ (∀ (C : Cipher) (lstar ldollar : Block) (n : Nat) (p e o sum : Nat → Block) (x : Bytes), o 0 = 0 → sum 0 = 0 →
      (∀ k < n, o (k + 1) = o k ^^^ ocbL ldollar (ntz (k + 1)) ∧ C.E (p k ^^^ o (k + 1)) = some (e k)
        ∧ sum (k + 1) = sum k ^^^ e k) →
      (x = [] → ocbHash C lstar ldollar (((List.range n).flatMap fun k => blockBytes 16 (p k)) ++ x) = some (sum n))
      ∧ (0 < x.length → x.length < 16 → ∀ f, C.E (ocbPad1 x ^^^ (o n ^^^ lstar)) = some f →
          ocbHash C lstar ldollar (((List.range n).flatMap fun k => blockBytes 16 (p k)) ++ x) = some (sum n ^^^ f)))
  ∧ (∀ x : Bytes, x.length < 16 →
      (ocbPad1 x).toNat = be x * 256 ^ (16 - x.length) + 0x80 * 256 ^ (15 - x.length))

/-- R131: MPROC, its checks passed and no collaborator call failing, writes Run's output at B, counts the bytes, moves the
phase to DATA and sets OUTLEN to L. -/
def Obligations.MprocWritesItsOutput : Prop :=
  ∀ (s : State) (w : Word64) (rest : List Word64) (a b l : Nat) (r : RunResult), s.queue = w :: rest →
    MprocAccepted Config.cipher s a b l → r = run Config.cipher s.ctx (s.buf.readBytes a l) → r.ok = true →
    exec (.mproc a b l) s =
      .next (({ s with buf := s.buf.writeBytes b r.out }.withSession { r.ctx with processed := s.ctx.processed + l }
        { s.phase with ph := .data } l).completed rest)

/-- R127, R129, R130, R131, R132, R189, on a collaborator `C`: a failing call of MINIT, MAAD, MPROC or MFINAL raises CIPHER_FAIL
and leaves the session FAILED with CIPHFAIL. MPROC and an encrypting or unauthenticated MFINAL still write every data byte;
a decrypting authenticated MFINAL writes none and leaves OUTLEN 0. Each command is its meaning on the machine's collaborator. The
context that is left is hidden, and what it holds is the model's choice (log 6). -/
def Obligations.CollaboratorFailure : Prop :=
  ∀ (C : Cipher) (s : State) (a b l : Nat) (c : Ctx) (r : RunResult),
    (s.phase.running = false → sessionConfig C s.mcfg s.ccmAlen.toNat = some c → nonceLegal C c.mode l = true →
      (c.mode = .ccm → s.ccmMlen.toNat < 2 ^ (8 * (15 - l))) → a + l ≤ Config.BUF_BYTES →
      modeInit C c (s.buf.readBytes a l) s.ccmAlen.toNat s.ccmMlen.toNat = none →
      minit C a l s = .raise .cipherFail (s.withSession c
        { PhaseReg.zero with ph := .failed, cipherFail := true, smode := c.mode, sdir := c.dir } 0))
    ∧ (firstFault (maadChecks a l s) = none → modeAad C s.ctx (s.buf.readBytes a l) = none →
        maad C a l s = .raise .cipherFail { s with phase := { s.phase with ph := .failed, cipherFail := true } })
    ∧ (MprocAccepted C s a b l → r = run C s.ctx (s.buf.readBytes a l) → r.ok = false →
        mproc C a b l s =
          .raise .cipherFail ({ s with buf := s.buf.writeBytes b r.out }.withSession
            { r.ctx with processed := s.ctx.processed + l } { s.phase with ph := .failed, cipherFail := true } l))
    ∧ (s.ctx.mode.isAuth = true → s.ctx.dir = .encrypt → MfinalTagAccepted s a b l →
        r = run C s.ctx (s.buf.readBytes a l) →
        r.ok = false ∨ modeTag C { r.ctx with processed := s.ctx.processed + l } = none →
        mfinal C a b l s =
          .raise .cipherFail ({ s with buf := s.buf.writeBytes b r.out }.withSession
            { r.ctx with processed := s.ctx.processed + l } { s.phase with ph := .failed, cipherFail := true } l))
    ∧ (s.ctx.mode.isAuth = false → MfinalPlainAccepted C s a b l → ∀ x : Bytes,
        x = (if s.ctx.mode.isBlock = true ∧ s.ctx.dir = .encrypt
              then padAdd C.bs s.ctx.pad (s.buf.readBytes a l) else s.buf.readBytes a l) →
        r = run C s.ctx x → r.ok = false →
        mfinal C a b l s =
          .raise .cipherFail ({ s with buf := s.buf.writeBytes b r.out }.withSession
            { r.ctx with processed := s.ctx.processed + l } { s.phase with ph := .failed, cipherFail := true }
            r.out.length))
    ∧ (s.ctx.mode.isAuth = true → s.ctx.dir = .decrypt → ∀ dlen, MfinalVerifyAccepted s a b l dlen →
        r = run C s.ctx (s.buf.readBytes a dlen) →
        r.ok = false ∨ modeTag C { r.ctx with processed := s.ctx.processed + dlen } = none →
        mfinal C a b l s =
          .raise .cipherFail (s.withSession
            { r.ctx with processed := s.ctx.processed + dlen } { s.phase with ph := .failed, cipherFail := true } 0))
    ∧ exec (.minit a l) s = finish (minit Config.cipher a l s) ∧ exec (.maad a l) s = finish (maad Config.cipher a l s)
    ∧ exec (.mproc a b l) s = finish (mproc Config.cipher a b l s)
    ∧ exec (.mfinal a b l) s = finish (mfinal Config.cipher a b l s)

/-- R132: MFINAL of an unauthenticated session that removes no padding, its checks passed and no collaborator call failing,
writes Run's output over the padded data, sets OUTLEN to its length and the phase to DONE. -/
def Obligations.MfinalEndsPlainSession : Prop :=
  ∀ (s : State) (w : Word64) (rest : List Word64) (a b l : Nat) (x : Bytes) (r : RunResult), s.queue = w :: rest →
    s.ctx.mode.isAuth = false → MfinalPlainAccepted Config.cipher s a b l →
    ¬(s.ctx.mode.isBlock = true ∧ s.ctx.dir = .decrypt ∧ s.ctx.pad ≠ .none) →
    x = (if s.ctx.mode.isBlock = true ∧ s.ctx.dir = .encrypt
          then padAdd Config.cipher.bs s.ctx.pad (s.buf.readBytes a l) else s.buf.readBytes a l) →
    r = run Config.cipher s.ctx x → r.ok = true →
    exec (.mfinal a b l) s =
      .next (({ s with buf := s.buf.writeBytes b r.out }.withSession { r.ctx with processed := s.ctx.processed + l }
        { s.phase with ph := .done } r.out.length).completed rest)

/-- R132, R187: MFINAL of a padded decryption on a collaborator `C` writes what PadRemove leaves; malformed padding raises
PADDING, writes no byte, and leaves OUTLEN 0 and the session FAILED with PADFAIL. The context
of that FAILED session is hidden, and what it holds is the model's choice (log 6). -/
def Obligations.MfinalRemovesPadding : Prop :=
  ∀ (C : Cipher) (s : State) (a b l : Nat) (r : RunResult), s.ctx.mode.isBlock = true → s.ctx.dir = .decrypt →
    s.ctx.pad ≠ .none → MfinalPlainAccepted C s a b l → r = run C s.ctx (s.buf.readBytes a l) → r.ok = true →
    (∀ out, padRemove C.bs s.ctx.pad r.out = some out →
        mfinal C a b l s = .ok ({ s with buf := s.buf.writeBytes b out }.withSession
          { r.ctx with processed := s.ctx.processed + l } { s.phase with ph := .done } out.length))
    ∧ (padRemove C.bs s.ctx.pad r.out = none →
        mfinal C a b l s = .raise .padding (s.withSession
          { r.ctx with processed := s.ctx.processed + l } { s.phase with ph := .failed, padFail := true } 0))

/-- R132: MFINAL of an encrypting authenticated session, its checks passed, the calls of Run succeeding and Tag giving `tag`,
writes the data and then the tag, after it or at TAGADDR, and ends DONE with TAGOK; OUTLEN counts a combined tag.
R150, R158, R167: the tag of GCM, of CCM and of OCB on a collaborator `C`, the first TAGLEN bytes of a 16-byte block. -/
def Obligations.MfinalAppendsTag : Prop :=
  (∀ (s : State) (w : Word64) (rest : List Word64) (a b l : Nat) (r : RunResult) (c : Ctx) (tag : Bytes),
    s.queue = w :: rest → s.ctx.mode.isAuth = true → s.ctx.dir = .encrypt → MfinalTagAccepted s a b l →
    r = run Config.cipher s.ctx (s.buf.readBytes a l) → r.ok = true →
    c = { r.ctx with processed := s.ctx.processed + l } → modeTag Config.cipher c = some tag →
    (s.ctx.tagpl = .combined → exec (.mfinal a b l) s =
        .next (({ s with buf := (s.buf.writeBytes b r.out).writeBytes (b + l) tag }.withSession c
          { s.phase with ph := .done, tagOk := true } (l + s.ctx.taglen)).completed rest))
    ∧ (s.ctx.tagpl = .detached → exec (.mfinal a b l) s =
        .next (({ s with buf := (s.buf.writeBytes b r.out).writeBytes s.tagaddr.toNat tag }.withSession c
          { s.phase with ph := .done, tagOk := true } l).completed rest)))
  ∧ (∀ (C : Cipher) (c : Ctx) (k : Block),
      (c.mode = .gcm → ∃ lb : Block, lb.toNat = 8 * c.alen % 2 ^ 64 * 2 ^ 64 + 8 * c.clen % 2 ^ 64
        ∧ modeTag C c = some ((blockBytes 16 (c.EJ0 ^^^ gcmMul (c.X ^^^ lb) c.H)).take c.taglen))
      ∧ (c.mode = .ccm → modeTag C c = some ((blockBytes 16 (c.Y ^^^ c.S0)).take c.taglen))
      ∧ (c.mode = .ocb → C.E (c.Chk ^^^ c.Off ^^^ c.Ldollar) = some k →
          modeTag C c = some ((blockBytes 16 (k ^^^ c.HA)).take c.taglen)))
  ∧ (∀ (n : Nat) (b : Block), (blockBytes n b).length = n
      ∧ ∀ k < n, (blockBytes n b)[k]? = some (BitVec.ofNat 8 (b.toNat / 256 ^ (n - 1 - k))))

/-- R132, R188, R210: MFINAL of a decrypting authenticated session compares the whole tag: equal, it writes the plaintext and
ends DONE with TAGOK; different in any byte, it raises AUTH_FAIL, writes no byte, leaves OUTLEN 0 and the session FAILED.
The context of that FAILED session is hidden, and what it holds is the model's choice (log 6). -/
def Obligations.MfinalVerifiesTag : Prop :=
  ∀ (s : State) (w : Word64) (rest : List Word64) (a b l dlen : Nat) (r : RunResult) (c : Ctx) (tag : Bytes),
    s.queue = w :: rest → s.ctx.mode.isAuth = true → s.ctx.dir = .decrypt → s.ctx.taglen ≤ 16 →
    MfinalVerifyAccepted s a b l dlen →
    r = run Config.cipher s.ctx (s.buf.readBytes a dlen) → r.ok = true →
    c = { r.ctx with processed := s.ctx.processed + dlen } → modeTag Config.cipher c = some tag →
    (tag = s.buf.readBytes (receivedTagAddr s a dlen) s.ctx.taglen → exec (.mfinal a b l) s =
        .next (({ s with buf := s.buf.writeBytes b r.out }.withSession c
          { s.phase with ph := .done, tagOk := true } dlen).completed rest))
    ∧ (tag ≠ s.buf.readBytes (receivedTagAddr s a dlen) s.ctx.taglen → exec (.mfinal a b l) s =
        .next ((s.withSession c { s.phase with ph := .failed, authFail := true } 0).faulted w .authFail))

/-- R128: MFINAL of a decrypting GCM, CCM or OCB session changes no byte of BUF unless it ends DONE with TAGOK set, whatever
the collaborator does. -/
def Obligations.MfinalReleasesOnlyVerifiedPlaintext : Prop :=
  ∀ (s t : State) (a b l : Nat), s.ctx.mode.isAuth = true → s.ctx.dir = .decrypt → exec (.mfinal a b l) s = .next t →
    t.buf = s.buf ∨ (t.phase.tagOk = true ∧ t.phase.ph = .done ∧ t.err = s.err)

/-- R133: MRESET zeroes the context, PHASE and OUTLEN in every phase and changes nothing else; its word is 0x14, and opcode 0x14
with another bit set is RESERVED_FIELD. -/
def Obligations.MresetAbandonsSession : Prop :=
  (∀ (s : State) (w : Word64) (rest : List Word64), s.queue = w :: rest →
    exec .mreset s = .next ((s.withSession Ctx.zero PhaseReg.zero 0).completed rest))
  ∧ (∀ w : Word64, bits w 7 0 = 0x14 → decode w = if w = 0x14#64 then .ok .mreset else .error .reservedField)

/-! ## Mode engine: data -/

/-- R126, R127: Run takes the whole segments in order, each from the context the one before it left; a segment whose collaborator
call fails passes through unchanged, leaves the context, and makes Run not ok. What is shorter than
a segment goes through Tail, in the same way. Its output is as long as its input. -/
def Obligations.RunTakesSegmentsInOrder : Prop :=
  ∀ (C : Cipher) (c : Ctx) (x y : Bytes),
    (run C c x).out.length = x.length
    ∧ (0 < x.length → x.length < segmentSize C c →
        (modeTail C c x = none → run C c x = { out := x, ctx := c, ok := false })
        ∧ (∀ o c', modeTail C c x = some (o, c') → run C c x = { out := o, ctx := c', ok := true }))
    ∧ (x.length = segmentSize C c → modeStep C c x = none →
        run C c (x ++ y) = { out := x ++ (run C c y).out, ctx := (run C c y).ctx, ok := false })
    ∧ (x.length = segmentSize C c → ∀ o c', modeStep C c x = some (o, c') →
        run C c (x ++ y) = { out := o ++ (run C c' y).out, ctx := (run C c' y).ctx, ok := (run C c' y).ok })

/-- R135 to R142: a whole-block encryption of n blocks in the unauthenticated modes, from the values `e k` the collaborator gives:
each output block, and the chain value or counter left, as the mode's rule gives them. CFB-8 in both directions, byte by
byte: the first byte of each keystream block, and the shift register. The output of a partial block in CFB, OFB and CTR, in both
directions: the bytes XORed with the first bytes of the keystream block. -/
def Obligations.BasicModesEncryptBlockByBlock : Prop :=
  (∀ (C : Cipher) (c : Ctx) (n : Nat) (p e v : Nat → Block) (msg : (Nat → Block) → Bytes),
    (∀ f, msg f = (List.range n).flatMap fun k => blockBytes C.bs (f k)) → c.dir = .encrypt → c.seg = .block →
    (∀ k < n, C.cut (p k) = p k) →
    (c.mode = .ecb → (∀ k < n, C.E (p k) = some (e k)) → run C c (msg p) = { out := msg e, ctx := c, ok := true })
    ∧ (c.mode = .cbc → v 0 = c.V → (∀ k < n, C.E (p k ^^^ v k) = some (e k) ∧ v (k + 1) = e k) →
        run C c (msg p) = { out := msg e, ctx := { c with V := v n }, ok := true })
    ∧ (c.mode = .pcbc → v 0 = c.V → (∀ k < n, C.E (p k ^^^ v k) = some (e k) ∧ v (k + 1) = p k ^^^ e k) →
        run C c (msg p) = { out := msg e, ctx := { c with V := v n }, ok := true })
    ∧ (c.mode = .cfb → v 0 = c.V → (∀ k < n, C.E (v k) = some (e k) ∧ v (k + 1) = p k ^^^ e k) →
        run C c (msg p) = { out := msg fun k => p k ^^^ e k, ctx := { c with V := v n }, ok := true })
    ∧ (c.mode = .ofb → v 0 = c.V → (∀ k < n, C.E (v k) = some (e k) ∧ v (k + 1) = e k) →
        run C c (msg p) = { out := msg fun k => p k ^^^ e k, ctx := { c with V := v n }, ok := true })
    ∧ (c.mode = .ctr → v 0 = c.CTR → (∀ k < n, C.E (v k) = some (e k) ∧ v (k + 1) = ctrNext C (v k)) →
        run C c (msg p) = { out := msg fun k => p k ^^^ e k, ctx := { c with CTR := v n }, ok := true }))
  ∧ (∀ (C : Cipher) (c : Ctx) (n : Nat) (p o : Nat → Byte) (e v : Nat → Block), c.mode = .cfb → c.seg = .byte → v 0 = c.V →
      (∀ k < n, C.E (v k) = some (e k) ∧ o k = p k ^^^ BitVec.ofNat 8 ((e k).toNat / 256 ^ (C.bs - 1))
        ∧ v (k + 1) = C.cut ((v k <<< 8) ||| (if c.dir = .encrypt then o k else p k).zeroExtend 128)) →
      run C c ((List.range n).map p) = { out := (List.range n).map o, ctx := { c with V := v n }, ok := true })
  ∧ (∀ (C : Cipher) (c : Ctx) (x : Bytes) (e : Block), 0 < x.length → x.length < C.bs →
      (c.mode = .cfb ∧ c.seg = .block ∧ C.E c.V = some e) ∨ (c.mode = .ofb ∧ C.E c.V = some e)
        ∨ (c.mode = .ctr ∧ C.E c.CTR = some e) →
      (run C c x).out = List.zipWith (fun y k => y ^^^ k) x (blockBytes C.bs e) ∧ (run C c x).ok = true)

/-- R148, R149, R156, R157, R165, R166: a whole-block encryption of n blocks in GCM, CCM and OCB with 16-byte blocks, from the values `e k` and `m k`
the collaborator gives: each output block, and the counter, accumulator, chain value, offset and checksum left.
A partial block in both directions: its output, and the same state from the zero-padded ciphertext (GCM), the zero-padded
plaintext (CCM) and the plaintext padded by a 1 bit (OCB). -/
def Obligations.AuthenticatedModesEncryptBlockByBlock : Prop :=
  (∀ (C : Cipher) (c : Ctx) (n : Nat) (p e m v x : Nat → Block) (msg : (Nat → Block) → Bytes),
    (∀ f, msg f = (List.range n).flatMap fun k => blockBytes 16 (f k)) → C.wide = true → c.dir = .encrypt →
    (c.mode = .gcm → v 0 = c.CB → x 0 = c.X →
      (∀ k < n, v (k + 1) = inc32 (v k) ∧ C.E (v (k + 1)) = some (e k) ∧ x (k + 1) = gcmMul (x k ^^^ (p k ^^^ e k)) c.H) →
      run C c (msg p) =
        { out := msg fun k => p k ^^^ e k, ctx := { c with CB := v n, X := x n, clen := c.clen + 16 * n }, ok := true })
    ∧ (c.mode = .ccm → x 0 = c.Y →
        (∀ k < n, C.E (ccmA c.q c.N (c.i + k + 1)) = some (e k) ∧ C.E (x k ^^^ p k) = some (m k) ∧ x (k + 1) = m k) →
        run C c (msg p) =
          { out := msg fun k => p k ^^^ e k, ctx := { c with i := c.i + n, Y := x n }, ok := true })
    ∧ (c.mode = .ocb → v 0 = c.Off → x 0 = c.Chk →
        (∀ k < n, v (k + 1) = v k ^^^ ocbL c.Ldollar (ntz (c.i + k + 1)) ∧ C.E (p k ^^^ v (k + 1)) = some (e k)
          ∧ x (k + 1) = x k ^^^ p k) →
        run C c (msg p) =
          { out := msg fun k => v (k + 1) ^^^ e k, ctx := { c with i := c.i + n, Off := v n, Chk := x n }, ok := true }))
  ∧ (∀ (C : Cipher) (c : Ctx) (x o ct pt : Bytes) (e m : Block), C.wide = true → 0 < x.length → x.length < 16 →
      o = List.zipWith (fun y k => y ^^^ k) x (blockBytes 16 e) →
      ct = (if c.dir = .encrypt then o else x) → pt = (if c.dir = .encrypt then x else o) →
      (c.mode = .gcm → C.E (inc32 c.CB) = some e → run C c x =
        { out := o
          ctx := { c with
            CB := inc32 c.CB
            X := gcmMul (c.X ^^^ BitVec.ofNat 128 (be ct * 256 ^ (16 - x.length))) c.H
            clen := c.clen + x.length }
          ok := true })
      ∧ (c.mode = .ccm → C.E (ccmA c.q c.N (c.i + 1)) = some e →
          C.E (c.Y ^^^ BitVec.ofNat 128 (be pt * 256 ^ (16 - x.length))) = some m →
          run C c x = { out := o, ctx := { c with i := c.i + 1, Y := m }, ok := true })
      ∧ (c.mode = .ocb → C.E (c.Off ^^^ c.Lstar) = some e →
          run C c x = { out := o, ctx := { c with Off := c.Off ^^^ c.Lstar, Chk := c.Chk ^^^ ocbPad1 pt }, ok := true }))

/-- R131: the result of a session does not depend on how its data is split between MPROC and MFINAL, each MPROC taking whole
segments. Run over two pieces is Run over the first and then, from the context it left, over the second. When the first command's
output overwrites nothing the second still reads, an MPROC of L1 bytes before an MPROC or MFINAL of L2 bytes leaves the state that
the one command of L1 + L2 bytes leaves (BUF with its padding and tag, the count of processed bytes, PHASE), but for OUTLEN, which
counts the last command only; and the one MFINAL raises the PADDING or AUTH_FAIL that the split one raises. -/
def Obligations.RunIsIndependentOfTheSplit : Prop :=
  (∀ (C : Cipher) (c : Ctx) (x y : Bytes), x.length % segmentSize C c = 0 →
    run C c (x ++ y)
      = { out := (run C c x).out ++ (run C (run C c x).ctx y).out
          ctx := (run C (run C c x).ctx y).ctx
          ok := (run C c x).ok && (run C (run C c x).ctx y).ok })
  ∧ (∀ (C : Cipher) (s s₁ : State) (a b l₁ l₂ : Nat), s.buf.wf → mproc C a b l₁ s = .ok s₁ →
      (∀ x, b ≤ x → x < b + l₁ → x < a + l₁ ∨ a + l₁ + l₂ ≤ x) →
      (∀ t, mproc C (a + l₁) (b + l₁) l₂ s₁ = .ok t →
        mproc C a b (l₁ + l₂) s = .ok { t with outlen := BitVec.ofNat 32 l₁ + t.outlen })
      ∧ ((s.ctx.mode.isAuth = true → s.ctx.dir = .decrypt → s.ctx.tagpl = .detached →
            ∀ x, b ≤ x → x < b + l₁ → x < s.tagaddr.toNat ∨ s.tagaddr.toNat + s.ctx.taglen ≤ x) →
          (∀ t, mfinal C (a + l₁) (b + l₁) l₂ s₁ = .ok t →
            mfinal C a b (l₁ + l₂) s = .ok { t with outlen := BitVec.ofNat 32 l₁ + t.outlen })
          ∧ (∀ f t, f = .padding ∨ f = .authFail → mfinal C (a + l₁) (b + l₁) l₂ s₁ = .raise f t →
              ∃ t', mfinal C a b (l₁ + l₂) s = .raise f t' ∧ t'.phase = t.phase ∧ t'.outlen = t.outlen)))

/-- The round trip of 95_test_vectors.md L1.6, for all nine modes and both CFB segments: with a collaborator whose E never fails
and whose D inverts it, running the output of an encryption through a decryption from the same context gives the input back and
ends in the same context, so that the tags agree. Whole blocks are asked only of ECB, CBC and PCBC; the authenticated modes have
16-byte blocks (R123); the chain value of a session fits its block size. -/
def Obligations.DecryptionInvertsEncryption : Prop :=
  ∀ (C : Cipher) (c : Ctx) (x : Bytes),
    (∀ b, ∃ y, C.E b = some y ∧ (C.cut b = b → C.D y = some b)) →
    (c.mode.isAuth = true → C.wide = true) → C.cut c.V = c.V → (c.mode.isBlock = true → x.length % C.bs = 0) →
    (run C { c with dir := .decrypt } (run C { c with dir := .encrypt } x).out).out = x
    ∧ (run C { c with dir := .decrypt } (run C { c with dir := .encrypt } x).out).ctx
        = { (run C { c with dir := .encrypt } x).ctx with dir := .decrypt }

/-- R176: PKCS7 removal undoes PKCS7 addition for every byte string and both block sizes; the padded string is a whole number of
blocks, longer by 1 to BS bytes, and 2·BS bytes long for a string of BS bytes. R171: each appended byte has the value n, their
number. R172: removal looks at the last byte n only, is malformed exactly when n is 0 or above BS, and takes n bytes away. -/
def Obligations.PaddingIdempotence : Prop :=
  ∀ (bs : Nat) (x y : Bytes) (n : Nat), bs = 8 ∨ bs = 16 →
    padRemove bs .pkcs7 (padAdd bs .pkcs7 x) = some x
    ∧ (padAdd bs .pkcs7 x).length % bs = 0
    ∧ x.length + 1 ≤ (padAdd bs .pkcs7 x).length ∧ (padAdd bs .pkcs7 x).length ≤ x.length + bs
    ∧ (x.length = bs → (padAdd bs .pkcs7 x).length = 2 * bs)
    ∧ padLen bs .pkcs7 x.length = bs - x.length % bs
    ∧ padAdd bs .pkcs7 x = x ++ List.replicate (bs - x.length % bs) (BitVec.ofNat 8 (bs - x.length % bs))
    ∧ (bs ≤ y.length → (∃ b ∈ y.getLast?, b.toNat = n) →
        (n = 0 ∨ bs < n → padRemove bs .pkcs7 y = none)
        ∧ (1 ≤ n → n ≤ bs → padRemove bs .pkcs7 y = some (y.take (y.length - n))))

/-- R173, R174: zero padding appends the fewest zero bytes that give a whole number of blocks, nothing to aligned data, and its
removal gives back every string whose last byte is not 0. Removal takes away the longest run of trailing zero bytes that is at
most BS − 1 bytes long. -/
def Obligations.ZeroPaddingRoundTrip : Prop :=
  ∀ (bs : Nat) (x y : Bytes), bs = 8 ∨ bs = 16 →
    (padAdd bs .zero x).length % bs = 0
    ∧ (x.length % bs = 0 → padAdd bs .zero x = x)
    ∧ ((∀ b ∈ x.getLast?, b ≠ 0#8) → padRemove bs .zero (padAdd bs .zero x) = some x)
    ∧ padLen bs .zero x.length = (bs - x.length % bs) % bs
    ∧ padAdd bs .zero x = x ++ List.replicate ((bs - x.length % bs) % bs) 0#8
    ∧ (bs ≤ y.length → ∃ k ≤ bs - 1, padRemove bs .zero y = some (y.take (y.length - k))
        ∧ (∀ j < k, y[y.length - 1 - j]? = some 0#8)
        ∧ (k < bs - 1 → y[y.length - 1 - k]? ≠ some 0#8))

/-- R145 and the counter of R141: inc32 adds 1 modulo 2^32 to the last 4 bytes and leaves the first 12; CTR's counter adds 1
modulo 2^(8·BS/2) to its last BS/2 bytes, the carry never entering the first BS/2. -/
def Obligations.CountersWrapInTheirSuffix : Prop :=
  (∀ b : Block, (inc32 b).toNat = b.toNat / 2 ^ 32 * 2 ^ 32 + (b.toNat % 2 ^ 32 + 1) % 2 ^ 32)
  ∧ (∀ (C : Cipher) (b : Block), C.cut b = b →
      (ctrNext C b).toNat
        = b.toNat / 2 ^ (4 * C.bs) * 2 ^ (4 * C.bs) + (b.toNat % 2 ^ (4 * C.bs) + 1) % 2 ^ (4 * C.bs))

/-- R160: doubling shifts left by 1, drops the top bit, and XORs 0x87 when that bit was 1; with R160's two examples. Each mask L_j
doubles the one before it, from L_0 = dbl(L_$), and ntz counts the trailing zero bits (R161). -/
def Obligations.OcbDoubling : Prop :=
  (∀ s : Block, (ocbDouble s).toNat = (2 * s.toNat % 2 ^ 128) ^^^ (if 2 ^ 127 ≤ s.toNat then 0x87 else 0))
  ∧ ocbDouble 0x80000000000000000000000000000000#128 = 0x87#128 ∧ ocbDouble 1#128 = 2#128
  ∧ (∀ (ldollar : Block) (j : Nat), ocbL ldollar 0 = ocbDouble ldollar ∧ ocbL ldollar (j + 1) = ocbDouble (ocbL ldollar j))
  ∧ (∀ i, 0 < i → 2 ^ ntz i ∣ i ∧ ¬2 ^ (ntz i + 1) ∣ i)

/-- R143: the multiplication of GHASH distributes over XOR on both sides, and the block 80 00 ... 00 (the polynomial 1) is its
identity. Multiplying by the next power of x is multiplying by x: a shift to the right by 1, XOR e1 00 ... 00 when the last bit
was 1; the block 40 00 ... 00 is x. R144: Fold takes the 16-byte pieces in order, the last zero-padded, each XORed into the
accumulator and multiplied by H. -/
def Obligations.GhashMultiplicationIsBilinear : Prop :=
  (∀ x y z : Block,
    gcmMul (x ^^^ y) z = gcmMul x z ^^^ gcmMul y z ∧ gcmMul x (y ^^^ z) = gcmMul x y ^^^ gcmMul x z
    ∧ gcmMul 0x80000000000000000000000000000000#128 y = y ∧ gcmMul x 0x80000000000000000000000000000000#128 = x)
  ∧ (∀ y : Block, gcmMul 0x40000000000000000000000000000000#128 y
      = (y >>> 1) ^^^ (if y.toNat % 2 = 1 then 0xE1000000000000000000000000000000#128 else 0))
  ∧ (∀ (y : Block) (k : Nat), k < 127 → gcmMul (BitVec.ofNat 128 (2 ^ k)) y
      = (gcmMul (BitVec.ofNat 128 (2 ^ (k + 1))) y >>> 1)
        ^^^ (if (gcmMul (BitVec.ofNat 128 (2 ^ (k + 1))) y).toNat % 2 = 1
              then 0xE1000000000000000000000000000000#128 else 0))
  ∧ (∀ (h x : Block) (s u : Bytes), ghashFold h x [] = x
      ∧ (s.length = 16 → ghashFold h x (s ++ u) = ghashFold h (gcmMul (x ^^^ BitVec.ofNat 128 (be s)) h) u)
      ∧ (0 < s.length → s.length < 16 →
          ghashFold h x s = gcmMul (x ^^^ BitVec.ofNat 128 (be s * 256 ^ (16 - s.length))) h))

/-- R152, R153: for a nonce of 7 to 13 bytes, a legal tag length and a message length that fits, B0 is the flags byte, the nonce
and the message length, and A_i is the byte q − 1, the nonce and i; byte strings are read big-endian (R17). -/
def Obligations.CcmBlocksAreFormatted : Prop :=
  (be [] = 0 ∧ ∀ (b : Byte) (s : Bytes), be (b :: s) = b.toNat * 256 ^ s.length + be s)
  ∧ ∀ (n : Bytes) (calen cmlen t q i : Nat), 7 ≤ n.length → n.length ≤ 13 → q = 15 - n.length →
    t ∈ [4, 6, 8, 10, 12, 14, 16] → cmlen < 2 ^ (8 * q) → i < 2 ^ (8 * q) →
    (ccmB0 calen cmlen t n).toNat
        = (64 * (if 0 < calen then 1 else 0) + 8 * ((t - 2) / 2) + (q - 1)) * 2 ^ 120 + be n * 2 ^ (8 * q) + cmlen
    ∧ (ccmA q n i).toNat = (q - 1) * 2 ^ 120 + be n * 2 ^ (8 * q) + i

/-! ## Host port -/

/-- R30, R31: ID, PARAM and PARAM2 read their constants in every state, and writes to them are ignored. -/
def Obligations.HostConstants : Prop :=
  ∀ (C : Cipher) (s : State) (v : Word32),
    hostReadAt C s 0x00 = 0x43534D45#32
    ∧ bits (hostReadAt C s 0x04) 7 0 = C.bs ∧ bits (hostReadAt C s 0x04) 15 8 = Nat.log2 Config.BUF_BYTES
    ∧ bits (hostReadAt C s 0x04) 23 16 = 64 ∧ bits (hostReadAt C s 0x04) 31 24 = 1
    ∧ bits (hostReadAt C s 0x08) 15 0 = Config.MAXW ∧ bits (hostReadAt C s 0x08) 31 16 = Config.CQ_DEPTH
    ∧ hostWriteAt s 0x00 v = s ∧ hostWriteAt s 0x04 v = s ∧ hostWriteAt s 0x08 v = s

/-- R33 to R37, R177, R198: every field of STATUS with the sixteen fault codes, the interrupt line, QCOUNT, CMDCNT, ERRIDX and ERRCMD as the host reads them, and
what a write to STATUS clears. -/
def Obligations.StatusAndQueueCount : Prop :=
  ∀ (C : Cipher) (s : State) (v : Word32),
    bits (hostReadAt C s 0x10) 0 0 = (if s.queue.length ≠ 0 then 1 else 0)
    ∧ bits (hostReadAt C s 0x10) 1 1 = (if s.queue.length = 0 then 1 else 0)
    ∧ bits (hostReadAt C s 0x10) 2 2 = (if s.queue.length = Config.CQ_DEPTH then 1 else 0)
    ∧ bits (hostReadAt C s 0x10) 3 3 = (if s.err ≠ none then 1 else 0)
    ∧ bits (hostReadAt C s 0x10) 4 4 = (if s.done then 1 else 0)
    ∧ bits (hostReadAt C s 0x10) 5 5 = (if s.ovf then 1 else 0)
    ∧ bits (hostReadAt C s 0x10) 6 6
        = (if (s.enables.done ∧ s.done) ∨ (s.enables.err ∧ s.err ≠ none) ∨ (s.enables.ovf ∧ s.ovf) then 1 else 0)
    ∧ bits (hostReadAt C s 0x10) 7 7 = 0
    ∧ bits (hostReadAt C s 0x10) 15 8 = (match s.err with
        | none => 0
        | some .illegalOpcode => 1 | some .reservedField => 2 | some .illegalCsr => 3 | some .bufBounds => 4
        | some .regUninit => 5 | some .sequence => 6 | some .badConfig => 7 | some .badNonce => 8
        | some .length => 9 | some .padding => 10 | some .authFail => 11 | some .cipherFail => 12
        | some .divZero => 13 | some .underflow => 14 | some .capacity => 15 | some .operandRange => 16)
    ∧ bits (hostReadAt C s 0x10) 31 16 = 0
    ∧ irq s = ((s.enables.done && s.done) || (s.enables.err && s.err.isSome) || (s.enables.ovf && s.ovf))
    ∧ (s.queue.length ≤ Config.CQ_DEPTH → (hostReadAt C s 0x14).toNat = s.queue.length)
    ∧ hostReadAt C s 0x18 = s.cmdcnt ∧ hostReadAt C s 0x1C = s.erridx
    ∧ (hostReadAt C s 0x20).toNat = bits s.errcmd 31 0 ∧ (hostReadAt C s 0x24).toNat = bits s.errcmd 63 32
    ∧ hostWriteAt s 0x10 v =
        { s with err := if bits v 3 3 = 1 then none else s.err
                 done := if bits v 4 4 = 1 then false else s.done
                 ovf := if bits v 5 5 = 1 then false else s.ovf }

/-- R32, R206: CTRL holds the three enables and reads SRST as 0; a write with SRST = 1 gives every element its power-on value but
BUF, whatever its other bits. That the soft reset leaves the host's list and the last value it read is the model's choice (log 2). -/
def Obligations.CtrlAndSoftReset : Prop :=
  ∀ (C : Cipher) (s : State) (v : Word32),
    (bits v 0 0 = 0 → hostWriteAt s 0x0C v =
        { s with enables := { done := bits v 1 1 = 1, err := bits v 2 2 = 1, ovf := bits v 3 3 = 1 } })
    ∧ (bits v 0 0 = 1 → hostWriteAt s 0x0C v = { State.powerOn s.buf with host := s.host, rdata := s.rdata })
    ∧ bits (hostReadAt C s 0x0C) 0 0 = 0
    ∧ bits (hostReadAt C s 0x0C) 1 1 = (if s.enables.done then 1 else 0)
    ∧ bits (hostReadAt C s 0x0C) 2 2 = (if s.enables.err then 1 else 0)
    ∧ bits (hostReadAt C s 0x0C) 3 3 = (if s.enables.ovf then 1 else 0)
    ∧ bits (hostReadAt C s 0x0C) 31 4 = 0

/-- R38: CMD_LO is latched and CMD_HI pushes the word, dropped with OVF set while ERR = 1 or the queue is full; both read 0, and
the latch keeps its value. -/
def Obligations.PushCommandWord : Prop :=
  ∀ (C : Cipher) (s : State) (v : Word32),
    hostWriteAt s 0x28 v = { s with cmdlat := v }
    ∧ (s.err = none → s.queue.length < Config.CQ_DEPTH →
        hostWriteAt s 0x2C v = { s with queue := s.queue ++ [v ++ s.cmdlat] })
    ∧ (s.err ≠ none ∨ Config.CQ_DEPTH ≤ s.queue.length → hostWriteAt s 0x2C v = { s with ovf := true })
    ∧ hostReadAt C s 0x28 = 0 ∧ hostReadAt C s 0x2C = 0

/-- R62, R63: the BUF window packs four bytes, the lowest address in bits 7:0, for reads and writes, and a write leaves every
other byte; reserved offsets read 0 and ignore writes; a write to a read-only register is ignored. -/
def Obligations.BufWindowAndReservedOffsets : Prop :=
  ∀ (C : Cipher) (s : State) (v : Word32) (a k x off : Nat),
    (a + 4 ≤ Config.BUF_BYTES →
      bits (hostReadAt C s (0x10000 + a)) 7 0 = (s.buf.read a).toNat
      ∧ bits (hostReadAt C s (0x10000 + a)) 15 8 = (s.buf.read (a + 1)).toNat
      ∧ bits (hostReadAt C s (0x10000 + a)) 23 16 = (s.buf.read (a + 2)).toNat
      ∧ bits (hostReadAt C s (0x10000 + a)) 31 24 = (s.buf.read (a + 3)).toNat
      ∧ (s.buf.wf →
          hostWriteAt s (0x10000 + a) v = { s with buf := (hostWriteAt s (0x10000 + a) v).buf }
          ∧ (k < 4 → ((hostWriteAt s (0x10000 + a) v).buf.read (a + k)).toNat = bits v (8 * k + 7) (8 * k))
          ∧ (x < a ∨ a + 4 ≤ x → (hostWriteAt s (0x10000 + a) v).buf.read x = s.buf.read x)))
    ∧ ((0x30 ≤ off ∧ off < 0x40) ∨ (0x60 ≤ off ∧ off < 0x10000) ∨ 0x10000 + Config.BUF_BYTES ≤ off →
        hostReadAt C s off = 0 ∧ hostWriteAt s off v = s)
    ∧ (∀ ro ∈ [0x00, 0x04, 0x08, 0x14, 0x18, 0x1C, 0x20, 0x24, 0x40, 0x44, 0x48, 0x4C, 0x50, 0x54, 0x58, 0x5C],
        hostWriteAt s ro v = s)

/-- R64: a host access is one event in its place in the host's list: a read changes nothing but the value the host sees, and a
write does what its register says; bits 1:0 of the address are ignored (R61). The host's list is the model's own way to
order events (log 2). -/
def Obligations.HostAccessIsOneEvent : Prop :=
  ∀ (s : State) (a : HostAddr) (v : Word32) (es : List HostEvent),
    (s.host = .read a :: es →
      step s = .next { s with host := es, rdata := hostReadAt Config.cipher s (a.toNat - a.toNat % 4) })
    ∧ (s.host = .write a v :: es → step s = .next (hostWriteAt { s with host := es } (a.toNat - a.toNat % 4) v))

/-- R28, R39, R45, R46: CSR n reads at 0x40 + 4n, with every field of PHASE, FLAGS and BVALID in its place; the host cannot
write it. -/
def Obligations.CsrWindow : Prop :=
  ∀ (C : Cipher) (s : State) (v : Word32),
    hostReadAt C s 0x40 = s.mcfg ∧ hostReadAt C s 0x44 = s.tagaddr ∧ hostReadAt C s 0x48 = s.ccmMlen
    ∧ hostReadAt C s 0x4C = s.ccmAlen ∧ hostReadAt C s 0x50 = s.outlen
    ∧ bits (hostReadAt C s 0x54) 2 0 = (match s.phase.ph with
        | .idle => 0 | .ready => 1 | .data => 2 | .done => 3 | .failed => 4)
    ∧ bits (hostReadAt C s 0x54) 3 3 = s.phase.aadDone.toNat ∧ bits (hostReadAt C s 0x54) 4 4 = s.phase.tagOk.toNat
    ∧ bits (hostReadAt C s 0x54) 5 5 = s.phase.authFail.toNat ∧ bits (hostReadAt C s 0x54) 6 6 = s.phase.cipherFail.toNat
    ∧ bits (hostReadAt C s 0x54) 7 7 = s.phase.padFail.toNat ∧ bits (hostReadAt C s 0x54) 11 8 = s.phase.smode.code
    ∧ bits (hostReadAt C s 0x54) 12 12 = s.phase.sdir.code ∧ bits (hostReadAt C s 0x54) 31 13 = 0
    ∧ bits (hostReadAt C s 0x58) 0 0 = s.flags.z.toNat ∧ bits (hostReadAt C s 0x58) 1 1 = s.flags.lt.toNat
    ∧ bits (hostReadAt C s 0x58) 2 2 = s.flags.eq.toNat ∧ bits (hostReadAt C s 0x58) 3 3 = s.flags.gt.toNat
    ∧ bits (hostReadAt C s 0x58) 4 4 = s.flags.nr.toNat ∧ bits (hostReadAt C s 0x58) 5 5 = s.flags.pp.toNat
    ∧ bits (hostReadAt C s 0x58) 31 6 = 0
    ∧ (∀ r : Reg, bits (hostReadAt C s 0x5C) r.val r.val = s.regs[r.val].valid.toNat)
    ∧ bits (hostReadAt C s 0x5C) 31 16 = 0
    ∧ (∀ n < 8, hostWriteAt s (0x40 + 4 * n) v = s)
end

