-- ==== Sys2Proof/Laws/Memory.lean ====
section
/-! SUPPORT. The laws of BUF: a write is read back, leaves every other byte alone, and keeps the canonical form. -/

namespace Sys2Proof.Laws

open Sys2Proof.Machine

/-- Reading below every listed address gives the unlisted byte. -/
theorem read_of_lt_all (m : Memory) (a : Nat) (h : ∀ c ∈ m, a < c.1) : m.read a = unlistedByte := by
  induction m with
  | nil => rfl
  | cons c m ih =>
    have hc : a < c.1 := h c (by simp)
    have hm : ∀ d ∈ m, a < d.1 := fun d hd => h d (by simp [hd])
    simp [Memory.read, ih hm, Nat.ne_of_lt hc]

/-- A write is read back (00_scope.md R19). -/
theorem read_write_same (m : Memory) (a : Nat) (b : Byte) (h : m.Pairwise fun p q => p.1 < q.1) :
    (m.write a b).read a = b := by
  induction m with
  | nil => by_cases hb : b = unlistedByte <;> simp [Memory.write, Memory.read, hb]
  | cons c m ih =>
    obtain ⟨k, v⟩ := c
    have hk := (List.pairwise_cons.mp h).1
    have hm := (List.pairwise_cons.mp h).2
    unfold Memory.write
    split
    · next hlt =>
      split
      · next hb =>
        rw [hb]
        refine read_of_lt_all _ _ fun c hc => ?_
        rcases List.mem_cons.mp hc with rfl | hc
        · exact hlt
        · exact Nat.lt_trans hlt (hk c hc)
      · simp [Memory.read]
    · split
      · next he =>
        split
        · next hb =>
          rw [hb, he]
          exact read_of_lt_all _ _ fun c hc => hk c hc
        · simp [Memory.read]
      · next hne => simp [Memory.read, hne, ih hm]

/-- A write leaves every other byte as it was. -/
theorem read_write_other (m : Memory) (a x : Nat) (b : Byte) (h : m.Pairwise fun p q => p.1 < q.1) (hx : x ≠ a) :
    (m.write a b).read x = m.read x := by
  induction m with
  | nil => by_cases hb : b = unlistedByte <;> simp [Memory.write, Memory.read, hb, hx]
  | cons c m ih =>
    obtain ⟨k, v⟩ := c
    have hm := (List.pairwise_cons.mp h).2
    unfold Memory.write
    split
    · split
      · rfl
      · simp [Memory.read, hx]
    · split
      · next he =>
        split
        · simp [Memory.read, ← he, hx]
        · simp [Memory.read, ← he, hx]
      · simp [Memory.read, ih hm]

/-- Every address listed after a write was listed before or is the one written. -/
theorem mem_write (m : Memory) (a : Nat) (b : Byte) (c : Host.Cell) (hc : c ∈ m.write a b) :
    c ∈ m ∨ (c = (a, b) ∧ b ≠ unlistedByte) := by
  induction m with
  | nil =>
    by_cases hb : b = unlistedByte <;> simp_all [Memory.write]
  | cons d m ih =>
    obtain ⟨k, v⟩ := d
    unfold Memory.write at hc
    split at hc
    · split at hc
      · exact .inl hc
      · next hb => rcases List.mem_cons.mp hc with h | h
                   · exact .inr ⟨h, hb⟩
                   · exact .inl h
    · split at hc
      · split at hc
        · exact .inl (List.mem_cons_of_mem _ hc)
        · next hb => rcases List.mem_cons.mp hc with h | h
                     · exact .inr ⟨h, hb⟩
                     · exact .inl (List.mem_cons_of_mem _ h)
      · rcases List.mem_cons.mp hc with h | h
        · exact .inl (h ▸ List.mem_cons_self ..)
        · rcases ih h with h | h
          · exact .inl (List.mem_cons_of_mem _ h)
          · exact .inr h

/-- A write keeps the canonical form. -/
theorem write_wf (m : Memory) (a : Nat) (b : Byte) (h : m.wf) (ha : a < Config.BUF_BYTES) : (m.write a b).wf := by
  obtain ⟨hp, hc⟩ := h
  refine ⟨?_, fun c hcm => ?_⟩
  · clear hc ha
    induction m with
    | nil => by_cases hb : b = unlistedByte <;> simp [Memory.write, hb]
    | cons d m ih =>
      obtain ⟨k, v⟩ := d
      obtain ⟨hk, hm⟩ := List.pairwise_cons.mp hp
      unfold Memory.write
      split
      · next hlt =>
        split
        · exact hp
        · refine List.pairwise_cons.mpr ⟨fun c hc => ?_, hp⟩
          rcases List.mem_cons.mp hc with rfl | hc
          · exact hlt
          · exact Nat.lt_trans hlt (hk c hc)
      · next hnlt =>
        split
        · next he =>
          split
          · exact hm
          · exact List.pairwise_cons.mpr ⟨fun c hc => he ▸ hk c hc, hm⟩
        · next hne =>
          refine List.pairwise_cons.mpr ⟨fun c hc => ?_, ih hm⟩
          rcases mem_write m a b c hc with hc | ⟨rfl, -⟩
          · exact hk c hc
          · exact Nat.lt_of_le_of_ne (Nat.not_lt.mp hnlt) (Ne.symm hne)
  · rcases mem_write m a b c hcm with h | ⟨rfl, hb⟩
    · exact hc c h
    · exact ⟨ha, hb⟩

/-- Writing a string inside BUF keeps the canonical form. -/
theorem writeBytes_wf (v : Bytes) (m : Memory) (a : Nat) (h : m.wf) (ha : a + v.length ≤ Config.BUF_BYTES) :
    (m.writeBytes a v).wf := by
  induction v generalizing m a with
  | nil => exact h
  | cons b v ih =>
    simp only [List.length_cons] at ha
    exact ih _ _ (write_wf m a b h (by omega)) (by omega)

/-- Writing a string inside BUF leaves every byte outside it as it was. -/
theorem read_writeBytes_other (v : Bytes) (m : Memory) (a x : Nat) (h : m.wf) (ha : a + v.length ≤ Config.BUF_BYTES)
    (hx : x < a ∨ a + v.length ≤ x) : (m.writeBytes a v).read x = m.read x := by
  induction v generalizing m a with
  | nil => rfl
  | cons b v ih =>
    simp only [List.length_cons] at ha hx
    unfold Memory.writeBytes
    rw [ih _ _ (write_wf m a b h (by omega)) (by omega) (by omega), read_write_other m a x b h.1 (by omega)]

/-- A string written inside BUF is read back byte by byte. -/
theorem read_writeBytes_same (v : Bytes) (m : Memory) (a k : Nat) (h : m.wf) (ha : a + v.length ≤ Config.BUF_BYTES)
    (hk : k < v.length) : (m.writeBytes a v).read (a + k) = v[k] := by
  induction v generalizing m a k with
  | nil => simp at hk
  | cons b v ih =>
    simp only [List.length_cons] at ha hk
    unfold Memory.writeBytes
    have hw := write_wf m a b h (by omega)
    cases k with
    | zero => rw [read_writeBytes_other v _ _ _ hw (by omega) (by omega)]; exact read_write_same m a b h.1
    | succ k =>
      have := ih (m.write a b) (a + 1) k hw (by omega) (by omega)
      simpa [Nat.add_assoc, Nat.add_comm 1 k] using this

/-- A string read has the length asked for. -/
@[simp] theorem length_readBytes (m : Memory) (a n : Nat) : (m.readBytes a n).length = n := by
  induction n generalizing a with
  | zero => rfl
  | succ n ih => simp [Memory.readBytes, ih]

/-- Byte k of a string read. -/
theorem getElem_readBytes (m : Memory) (a n k : Nat) (h : k < (m.readBytes a n).length) :
    (m.readBytes a n)[k] = m.read (a + k) := by
  induction n generalizing a k with
  | zero => simp at h
  | succ n ih =>
    cases k with
    | zero => rfl
    | succ k =>
      simp only [Memory.readBytes, List.getElem_cons_succ]
      rw [ih]
      congr 1
      omega

/-- Two memories in canonical form that read alike are the same list. -/
theorem memory_ext (m n : Memory) (hm : m.wf) (hn : n.wf) (h : ∀ a, m.read a = n.read a) : m = n := by
  induction m generalizing n with
  | nil =>
    cases n with
    | nil => rfl
    | cons c n =>
      have := h c.1
      simp only [Memory.read, if_true] at this
      exact absurd this.symm (hn.2 c (by simp)).2
  | cons c m ih =>
    have hmc := List.pairwise_cons.mp hm.1
    cases n with
    | nil =>
      have := h c.1
      simp only [Memory.read, if_true] at this
      exact absurd this (hm.2 c (by simp)).2
    | cons d n =>
      have hnd := List.pairwise_cons.mp hn.1
      have hcd : c.1 = d.1 := by
        rcases Nat.lt_trichotomy c.1 d.1 with hlt | he | hgt
        · have h1 := h c.1
          rw [read_of_lt_all (d :: n) c.1 fun e he => by
            rcases List.mem_cons.mp he with rfl | he
            · exact hlt
            · exact Nat.lt_trans hlt (hnd.1 e he)] at h1
          simp only [Memory.read, if_true] at h1
          exact absurd h1 (hm.2 c (by simp)).2
        · exact he
        · have h1 := h d.1
          rw [read_of_lt_all (c :: m) d.1 fun e he => by
            rcases List.mem_cons.mp he with rfl | he
            · exact hgt
            · exact Nat.lt_trans hgt (hmc.1 e he)] at h1
          simp only [Memory.read, if_true] at h1
          exact absurd h1.symm (hn.2 d (by simp)).2
      have hv : c.2 = d.2 := by
        have h1 := h c.1
        simpa [Memory.read, hcd] using h1
      have hrest : m = n := by
        refine ih n ⟨hmc.2, fun e he => hm.2 e (by simp [he])⟩ ⟨hnd.2, fun e he => hn.2 e (by simp [he])⟩ fun a => ?_
        by_cases ha : a = c.1
        · rw [ha, read_of_lt_all m c.1 fun e he => hmc.1 e he,
            read_of_lt_all n c.1 fun e he => hcd ▸ hnd.1 e he]
        · have h1 := h a
          simpa [Memory.read, ha, hcd ▸ ha] using h1
      rw [hrest, Prod.ext hcd hv]

end Sys2Proof.Laws
end

