-- ==== Sys2Proof/Laws/State.lean ====
section
/-! SUPPORT. One lemma per field of State per update of State, each true by rfl, so that no proof unfolds an update. -/

namespace Sys2Proof.Laws

open Sys2Proof.Machine

variable (s : State)

@[simp] theorem writeReg_regs (r : Reg) (v : Nat) : (s.writeReg r v).regs = s.regs.set r.val { valid := true, value := v } r.isLt := rfl
@[simp] theorem writeReg_flags (r : Reg) (v : Nat) : (s.writeReg r v).flags = s.flags := rfl
@[simp] theorem writeReg_mcfg (r : Reg) (v : Nat) : (s.writeReg r v).mcfg = s.mcfg := rfl
@[simp] theorem writeReg_tagaddr (r : Reg) (v : Nat) : (s.writeReg r v).tagaddr = s.tagaddr := rfl
@[simp] theorem writeReg_ccmMlen (r : Reg) (v : Nat) : (s.writeReg r v).ccmMlen = s.ccmMlen := rfl
@[simp] theorem writeReg_ccmAlen (r : Reg) (v : Nat) : (s.writeReg r v).ccmAlen = s.ccmAlen := rfl
@[simp] theorem writeReg_outlen (r : Reg) (v : Nat) : (s.writeReg r v).outlen = s.outlen := rfl
@[simp] theorem writeReg_phase (r : Reg) (v : Nat) : (s.writeReg r v).phase = s.phase := rfl
@[simp] theorem writeReg_ctx (r : Reg) (v : Nat) : (s.writeReg r v).ctx = s.ctx := rfl
@[simp] theorem writeReg_queue (r : Reg) (v : Nat) : (s.writeReg r v).queue = s.queue := rfl
@[simp] theorem writeReg_cmdlat (r : Reg) (v : Nat) : (s.writeReg r v).cmdlat = s.cmdlat := rfl
@[simp] theorem writeReg_enables (r : Reg) (v : Nat) : (s.writeReg r v).enables = s.enables := rfl
@[simp] theorem writeReg_err (r : Reg) (v : Nat) : (s.writeReg r v).err = s.err := rfl
@[simp] theorem writeReg_done (r : Reg) (v : Nat) : (s.writeReg r v).done = s.done := rfl
@[simp] theorem writeReg_ovf (r : Reg) (v : Nat) : (s.writeReg r v).ovf = s.ovf := rfl
@[simp] theorem writeReg_cmdcnt (r : Reg) (v : Nat) : (s.writeReg r v).cmdcnt = s.cmdcnt := rfl
@[simp] theorem writeReg_erridx (r : Reg) (v : Nat) : (s.writeReg r v).erridx = s.erridx := rfl
@[simp] theorem writeReg_errcmd (r : Reg) (v : Nat) : (s.writeReg r v).errcmd = s.errcmd := rfl
@[simp] theorem writeReg_buf (r : Reg) (v : Nat) : (s.writeReg r v).buf = s.buf := rfl
@[simp] theorem writeReg_host (r : Reg) (v : Nat) : (s.writeReg r v).host = s.host := rfl
@[simp] theorem writeReg_rdata (r : Reg) (v : Nat) : (s.writeReg r v).rdata = s.rdata := rfl

@[simp] theorem setFlags_regs (f : Flags) : (s.setFlags f).regs = s.regs := rfl
@[simp] theorem setFlags_flags (f : Flags) : (s.setFlags f).flags = f := rfl
@[simp] theorem setFlags_mcfg (f : Flags) : (s.setFlags f).mcfg = s.mcfg := rfl
@[simp] theorem setFlags_tagaddr (f : Flags) : (s.setFlags f).tagaddr = s.tagaddr := rfl
@[simp] theorem setFlags_ccmMlen (f : Flags) : (s.setFlags f).ccmMlen = s.ccmMlen := rfl
@[simp] theorem setFlags_ccmAlen (f : Flags) : (s.setFlags f).ccmAlen = s.ccmAlen := rfl
@[simp] theorem setFlags_outlen (f : Flags) : (s.setFlags f).outlen = s.outlen := rfl
@[simp] theorem setFlags_phase (f : Flags) : (s.setFlags f).phase = s.phase := rfl
@[simp] theorem setFlags_ctx (f : Flags) : (s.setFlags f).ctx = s.ctx := rfl
@[simp] theorem setFlags_queue (f : Flags) : (s.setFlags f).queue = s.queue := rfl
@[simp] theorem setFlags_cmdlat (f : Flags) : (s.setFlags f).cmdlat = s.cmdlat := rfl
@[simp] theorem setFlags_enables (f : Flags) : (s.setFlags f).enables = s.enables := rfl
@[simp] theorem setFlags_err (f : Flags) : (s.setFlags f).err = s.err := rfl
@[simp] theorem setFlags_done (f : Flags) : (s.setFlags f).done = s.done := rfl
@[simp] theorem setFlags_ovf (f : Flags) : (s.setFlags f).ovf = s.ovf := rfl
@[simp] theorem setFlags_cmdcnt (f : Flags) : (s.setFlags f).cmdcnt = s.cmdcnt := rfl
@[simp] theorem setFlags_erridx (f : Flags) : (s.setFlags f).erridx = s.erridx := rfl
@[simp] theorem setFlags_errcmd (f : Flags) : (s.setFlags f).errcmd = s.errcmd := rfl
@[simp] theorem setFlags_buf (f : Flags) : (s.setFlags f).buf = s.buf := rfl
@[simp] theorem setFlags_host (f : Flags) : (s.setFlags f).host = s.host := rfl
@[simp] theorem setFlags_rdata (f : Flags) : (s.setFlags f).rdata = s.rdata := rfl

@[simp] theorem putReg_regs (r : Reg) (v : Nat) : (s.putReg r v).regs = s.regs.set r.val { valid := true, value := v } r.isLt := rfl
@[simp] theorem putReg_flags (r : Reg) (v : Nat) : (s.putReg r v).flags = s.flags.withZ v := rfl
@[simp] theorem putReg_mcfg (r : Reg) (v : Nat) : (s.putReg r v).mcfg = s.mcfg := rfl
@[simp] theorem putReg_tagaddr (r : Reg) (v : Nat) : (s.putReg r v).tagaddr = s.tagaddr := rfl
@[simp] theorem putReg_ccmMlen (r : Reg) (v : Nat) : (s.putReg r v).ccmMlen = s.ccmMlen := rfl
@[simp] theorem putReg_ccmAlen (r : Reg) (v : Nat) : (s.putReg r v).ccmAlen = s.ccmAlen := rfl
@[simp] theorem putReg_outlen (r : Reg) (v : Nat) : (s.putReg r v).outlen = s.outlen := rfl
@[simp] theorem putReg_phase (r : Reg) (v : Nat) : (s.putReg r v).phase = s.phase := rfl
@[simp] theorem putReg_ctx (r : Reg) (v : Nat) : (s.putReg r v).ctx = s.ctx := rfl
@[simp] theorem putReg_queue (r : Reg) (v : Nat) : (s.putReg r v).queue = s.queue := rfl
@[simp] theorem putReg_cmdlat (r : Reg) (v : Nat) : (s.putReg r v).cmdlat = s.cmdlat := rfl
@[simp] theorem putReg_enables (r : Reg) (v : Nat) : (s.putReg r v).enables = s.enables := rfl
@[simp] theorem putReg_err (r : Reg) (v : Nat) : (s.putReg r v).err = s.err := rfl
@[simp] theorem putReg_done (r : Reg) (v : Nat) : (s.putReg r v).done = s.done := rfl
@[simp] theorem putReg_ovf (r : Reg) (v : Nat) : (s.putReg r v).ovf = s.ovf := rfl
@[simp] theorem putReg_cmdcnt (r : Reg) (v : Nat) : (s.putReg r v).cmdcnt = s.cmdcnt := rfl
@[simp] theorem putReg_erridx (r : Reg) (v : Nat) : (s.putReg r v).erridx = s.erridx := rfl
@[simp] theorem putReg_errcmd (r : Reg) (v : Nat) : (s.putReg r v).errcmd = s.errcmd := rfl
@[simp] theorem putReg_buf (r : Reg) (v : Nat) : (s.putReg r v).buf = s.buf := rfl
@[simp] theorem putReg_host (r : Reg) (v : Nat) : (s.putReg r v).host = s.host := rfl
@[simp] theorem putReg_rdata (r : Reg) (v : Nat) : (s.putReg r v).rdata = s.rdata := rfl

@[simp] theorem setBuf_regs (m : Memory) : (s.setBuf m).regs = s.regs := rfl
@[simp] theorem setBuf_flags (m : Memory) : (s.setBuf m).flags = s.flags := rfl
@[simp] theorem setBuf_mcfg (m : Memory) : (s.setBuf m).mcfg = s.mcfg := rfl
@[simp] theorem setBuf_tagaddr (m : Memory) : (s.setBuf m).tagaddr = s.tagaddr := rfl
@[simp] theorem setBuf_ccmMlen (m : Memory) : (s.setBuf m).ccmMlen = s.ccmMlen := rfl
@[simp] theorem setBuf_ccmAlen (m : Memory) : (s.setBuf m).ccmAlen = s.ccmAlen := rfl
@[simp] theorem setBuf_outlen (m : Memory) : (s.setBuf m).outlen = s.outlen := rfl
@[simp] theorem setBuf_phase (m : Memory) : (s.setBuf m).phase = s.phase := rfl
@[simp] theorem setBuf_ctx (m : Memory) : (s.setBuf m).ctx = s.ctx := rfl
@[simp] theorem setBuf_queue (m : Memory) : (s.setBuf m).queue = s.queue := rfl
@[simp] theorem setBuf_cmdlat (m : Memory) : (s.setBuf m).cmdlat = s.cmdlat := rfl
@[simp] theorem setBuf_enables (m : Memory) : (s.setBuf m).enables = s.enables := rfl
@[simp] theorem setBuf_err (m : Memory) : (s.setBuf m).err = s.err := rfl
@[simp] theorem setBuf_done (m : Memory) : (s.setBuf m).done = s.done := rfl
@[simp] theorem setBuf_ovf (m : Memory) : (s.setBuf m).ovf = s.ovf := rfl
@[simp] theorem setBuf_cmdcnt (m : Memory) : (s.setBuf m).cmdcnt = s.cmdcnt := rfl
@[simp] theorem setBuf_erridx (m : Memory) : (s.setBuf m).erridx = s.erridx := rfl
@[simp] theorem setBuf_errcmd (m : Memory) : (s.setBuf m).errcmd = s.errcmd := rfl
@[simp] theorem setBuf_buf (m : Memory) : (s.setBuf m).buf = m := rfl
@[simp] theorem setBuf_host (m : Memory) : (s.setBuf m).host = s.host := rfl
@[simp] theorem setBuf_rdata (m : Memory) : (s.setBuf m).rdata = s.rdata := rfl

@[simp] theorem setSession_regs (c : Ctx) (p : PhaseReg) : (s.setSession c p).regs = s.regs := rfl
@[simp] theorem setSession_flags (c : Ctx) (p : PhaseReg) : (s.setSession c p).flags = s.flags := rfl
@[simp] theorem setSession_mcfg (c : Ctx) (p : PhaseReg) : (s.setSession c p).mcfg = s.mcfg := rfl
@[simp] theorem setSession_tagaddr (c : Ctx) (p : PhaseReg) : (s.setSession c p).tagaddr = s.tagaddr := rfl
@[simp] theorem setSession_ccmMlen (c : Ctx) (p : PhaseReg) : (s.setSession c p).ccmMlen = s.ccmMlen := rfl
@[simp] theorem setSession_ccmAlen (c : Ctx) (p : PhaseReg) : (s.setSession c p).ccmAlen = s.ccmAlen := rfl
@[simp] theorem setSession_outlen (c : Ctx) (p : PhaseReg) : (s.setSession c p).outlen = s.outlen := rfl
@[simp] theorem setSession_phase (c : Ctx) (p : PhaseReg) : (s.setSession c p).phase = p := rfl
@[simp] theorem setSession_ctx (c : Ctx) (p : PhaseReg) : (s.setSession c p).ctx = c := rfl
@[simp] theorem setSession_queue (c : Ctx) (p : PhaseReg) : (s.setSession c p).queue = s.queue := rfl
@[simp] theorem setSession_cmdlat (c : Ctx) (p : PhaseReg) : (s.setSession c p).cmdlat = s.cmdlat := rfl
@[simp] theorem setSession_enables (c : Ctx) (p : PhaseReg) : (s.setSession c p).enables = s.enables := rfl
@[simp] theorem setSession_err (c : Ctx) (p : PhaseReg) : (s.setSession c p).err = s.err := rfl
@[simp] theorem setSession_done (c : Ctx) (p : PhaseReg) : (s.setSession c p).done = s.done := rfl
@[simp] theorem setSession_ovf (c : Ctx) (p : PhaseReg) : (s.setSession c p).ovf = s.ovf := rfl
@[simp] theorem setSession_cmdcnt (c : Ctx) (p : PhaseReg) : (s.setSession c p).cmdcnt = s.cmdcnt := rfl
@[simp] theorem setSession_erridx (c : Ctx) (p : PhaseReg) : (s.setSession c p).erridx = s.erridx := rfl
@[simp] theorem setSession_errcmd (c : Ctx) (p : PhaseReg) : (s.setSession c p).errcmd = s.errcmd := rfl
@[simp] theorem setSession_buf (c : Ctx) (p : PhaseReg) : (s.setSession c p).buf = s.buf := rfl
@[simp] theorem setSession_host (c : Ctx) (p : PhaseReg) : (s.setSession c p).host = s.host := rfl
@[simp] theorem setSession_rdata (c : Ctx) (p : PhaseReg) : (s.setSession c p).rdata = s.rdata := rfl

@[simp] theorem setOutlen_regs (n : Nat) : (s.setOutlen n).regs = s.regs := rfl
@[simp] theorem setOutlen_flags (n : Nat) : (s.setOutlen n).flags = s.flags := rfl
@[simp] theorem setOutlen_mcfg (n : Nat) : (s.setOutlen n).mcfg = s.mcfg := rfl
@[simp] theorem setOutlen_tagaddr (n : Nat) : (s.setOutlen n).tagaddr = s.tagaddr := rfl
@[simp] theorem setOutlen_ccmMlen (n : Nat) : (s.setOutlen n).ccmMlen = s.ccmMlen := rfl
@[simp] theorem setOutlen_ccmAlen (n : Nat) : (s.setOutlen n).ccmAlen = s.ccmAlen := rfl
@[simp] theorem setOutlen_outlen (n : Nat) : (s.setOutlen n).outlen = BitVec.ofNat 32 n := rfl
@[simp] theorem setOutlen_phase (n : Nat) : (s.setOutlen n).phase = s.phase := rfl
@[simp] theorem setOutlen_ctx (n : Nat) : (s.setOutlen n).ctx = s.ctx := rfl
@[simp] theorem setOutlen_queue (n : Nat) : (s.setOutlen n).queue = s.queue := rfl
@[simp] theorem setOutlen_cmdlat (n : Nat) : (s.setOutlen n).cmdlat = s.cmdlat := rfl
@[simp] theorem setOutlen_enables (n : Nat) : (s.setOutlen n).enables = s.enables := rfl
@[simp] theorem setOutlen_err (n : Nat) : (s.setOutlen n).err = s.err := rfl
@[simp] theorem setOutlen_done (n : Nat) : (s.setOutlen n).done = s.done := rfl
@[simp] theorem setOutlen_ovf (n : Nat) : (s.setOutlen n).ovf = s.ovf := rfl
@[simp] theorem setOutlen_cmdcnt (n : Nat) : (s.setOutlen n).cmdcnt = s.cmdcnt := rfl
@[simp] theorem setOutlen_erridx (n : Nat) : (s.setOutlen n).erridx = s.erridx := rfl
@[simp] theorem setOutlen_errcmd (n : Nat) : (s.setOutlen n).errcmd = s.errcmd := rfl
@[simp] theorem setOutlen_buf (n : Nat) : (s.setOutlen n).buf = s.buf := rfl
@[simp] theorem setOutlen_host (n : Nat) : (s.setOutlen n).host = s.host := rfl
@[simp] theorem setOutlen_rdata (n : Nat) : (s.setOutlen n).rdata = s.rdata := rfl

@[simp] theorem commit_regs : s.commit.regs = s.regs := rfl
@[simp] theorem commit_flags : s.commit.flags = s.flags := rfl
@[simp] theorem commit_mcfg : s.commit.mcfg = s.mcfg := rfl
@[simp] theorem commit_tagaddr : s.commit.tagaddr = s.tagaddr := rfl
@[simp] theorem commit_ccmMlen : s.commit.ccmMlen = s.ccmMlen := rfl
@[simp] theorem commit_ccmAlen : s.commit.ccmAlen = s.ccmAlen := rfl
@[simp] theorem commit_outlen : s.commit.outlen = s.outlen := rfl
@[simp] theorem commit_phase : s.commit.phase = s.phase := rfl
@[simp] theorem commit_ctx : s.commit.ctx = s.ctx := rfl
@[simp] theorem commit_queue : s.commit.queue = s.queue.tail := rfl
@[simp] theorem commit_cmdlat : s.commit.cmdlat = s.cmdlat := rfl
@[simp] theorem commit_enables : s.commit.enables = s.enables := rfl
@[simp] theorem commit_err : s.commit.err = s.err := rfl
@[simp] theorem commit_done : s.commit.done = (s.done || s.queue.tail.isEmpty) := rfl
@[simp] theorem commit_ovf : s.commit.ovf = s.ovf := rfl
@[simp] theorem commit_cmdcnt : s.commit.cmdcnt = s.cmdcnt + 1 := rfl
@[simp] theorem commit_erridx : s.commit.erridx = s.erridx := rfl
@[simp] theorem commit_errcmd : s.commit.errcmd = s.errcmd := rfl
@[simp] theorem commit_buf : s.commit.buf = s.buf := rfl
@[simp] theorem commit_host : s.commit.host = s.host := rfl
@[simp] theorem commit_rdata : s.commit.rdata = s.rdata := rfl

@[simp] theorem takeFault_regs (c : FaultCode) : (s.takeFault c).regs = s.regs := rfl
@[simp] theorem takeFault_flags (c : FaultCode) : (s.takeFault c).flags = s.flags := rfl
@[simp] theorem takeFault_mcfg (c : FaultCode) : (s.takeFault c).mcfg = s.mcfg := rfl
@[simp] theorem takeFault_tagaddr (c : FaultCode) : (s.takeFault c).tagaddr = s.tagaddr := rfl
@[simp] theorem takeFault_ccmMlen (c : FaultCode) : (s.takeFault c).ccmMlen = s.ccmMlen := rfl
@[simp] theorem takeFault_ccmAlen (c : FaultCode) : (s.takeFault c).ccmAlen = s.ccmAlen := rfl
@[simp] theorem takeFault_outlen (c : FaultCode) : (s.takeFault c).outlen = s.outlen := rfl
@[simp] theorem takeFault_phase (c : FaultCode) : (s.takeFault c).phase = s.phase := rfl
@[simp] theorem takeFault_ctx (c : FaultCode) : (s.takeFault c).ctx = s.ctx := rfl
@[simp] theorem takeFault_queue (c : FaultCode) : (s.takeFault c).queue = [] := rfl
@[simp] theorem takeFault_cmdlat (c : FaultCode) : (s.takeFault c).cmdlat = s.cmdlat := rfl
@[simp] theorem takeFault_enables (c : FaultCode) : (s.takeFault c).enables = s.enables := rfl
@[simp] theorem takeFault_err (c : FaultCode) : (s.takeFault c).err = some c := rfl
@[simp] theorem takeFault_done (c : FaultCode) : (s.takeFault c).done = s.done := rfl
@[simp] theorem takeFault_ovf (c : FaultCode) : (s.takeFault c).ovf = s.ovf := rfl
@[simp] theorem takeFault_cmdcnt (c : FaultCode) : (s.takeFault c).cmdcnt = s.cmdcnt := rfl
@[simp] theorem takeFault_erridx (c : FaultCode) : (s.takeFault c).erridx = s.cmdcnt := rfl
@[simp] theorem takeFault_errcmd (c : FaultCode) : (s.takeFault c).errcmd = s.queue.headD 0 := rfl
@[simp] theorem takeFault_buf (c : FaultCode) : (s.takeFault c).buf = s.buf := rfl
@[simp] theorem takeFault_host (c : FaultCode) : (s.takeFault c).host = s.host := rfl
@[simp] theorem takeFault_rdata (c : FaultCode) : (s.takeFault c).rdata = s.rdata := rfl

@[simp] theorem ackFault_regs : s.ackFault.regs = s.regs := rfl
@[simp] theorem ackFault_flags : s.ackFault.flags = s.flags := rfl
@[simp] theorem ackFault_mcfg : s.ackFault.mcfg = s.mcfg := rfl
@[simp] theorem ackFault_tagaddr : s.ackFault.tagaddr = s.tagaddr := rfl
@[simp] theorem ackFault_ccmMlen : s.ackFault.ccmMlen = s.ccmMlen := rfl
@[simp] theorem ackFault_ccmAlen : s.ackFault.ccmAlen = s.ccmAlen := rfl
@[simp] theorem ackFault_outlen : s.ackFault.outlen = s.outlen := rfl
@[simp] theorem ackFault_phase : s.ackFault.phase = s.phase := rfl
@[simp] theorem ackFault_ctx : s.ackFault.ctx = s.ctx := rfl
@[simp] theorem ackFault_queue : s.ackFault.queue = s.queue := rfl
@[simp] theorem ackFault_cmdlat : s.ackFault.cmdlat = s.cmdlat := rfl
@[simp] theorem ackFault_enables : s.ackFault.enables = s.enables := rfl
@[simp] theorem ackFault_err : s.ackFault.err = none := rfl
@[simp] theorem ackFault_done : s.ackFault.done = s.done := rfl
@[simp] theorem ackFault_ovf : s.ackFault.ovf = s.ovf := rfl
@[simp] theorem ackFault_cmdcnt : s.ackFault.cmdcnt = s.cmdcnt := rfl
@[simp] theorem ackFault_erridx : s.ackFault.erridx = s.erridx := rfl
@[simp] theorem ackFault_errcmd : s.ackFault.errcmd = s.errcmd := rfl
@[simp] theorem ackFault_buf : s.ackFault.buf = s.buf := rfl
@[simp] theorem ackFault_host : s.ackFault.host = s.host := rfl
@[simp] theorem ackFault_rdata : s.ackFault.rdata = s.rdata := rfl

@[simp] theorem popHost_regs : s.popHost.regs = s.regs := rfl
@[simp] theorem popHost_flags : s.popHost.flags = s.flags := rfl
@[simp] theorem popHost_mcfg : s.popHost.mcfg = s.mcfg := rfl
@[simp] theorem popHost_tagaddr : s.popHost.tagaddr = s.tagaddr := rfl
@[simp] theorem popHost_ccmMlen : s.popHost.ccmMlen = s.ccmMlen := rfl
@[simp] theorem popHost_ccmAlen : s.popHost.ccmAlen = s.ccmAlen := rfl
@[simp] theorem popHost_outlen : s.popHost.outlen = s.outlen := rfl
@[simp] theorem popHost_phase : s.popHost.phase = s.phase := rfl
@[simp] theorem popHost_ctx : s.popHost.ctx = s.ctx := rfl
@[simp] theorem popHost_queue : s.popHost.queue = s.queue := rfl
@[simp] theorem popHost_cmdlat : s.popHost.cmdlat = s.cmdlat := rfl
@[simp] theorem popHost_enables : s.popHost.enables = s.enables := rfl
@[simp] theorem popHost_err : s.popHost.err = s.err := rfl
@[simp] theorem popHost_done : s.popHost.done = s.done := rfl
@[simp] theorem popHost_ovf : s.popHost.ovf = s.ovf := rfl
@[simp] theorem popHost_cmdcnt : s.popHost.cmdcnt = s.cmdcnt := rfl
@[simp] theorem popHost_erridx : s.popHost.erridx = s.erridx := rfl
@[simp] theorem popHost_errcmd : s.popHost.errcmd = s.errcmd := rfl
@[simp] theorem popHost_buf : s.popHost.buf = s.buf := rfl
@[simp] theorem popHost_host : s.popHost.host = s.host.tail := rfl
@[simp] theorem popHost_rdata : s.popHost.rdata = s.rdata := rfl

/-- WCSR's write changes at most the four writable CSRs (40_control.md R94). -/
theorem writeCsr_frame (n : Nat) (v : Word32) :
    s.writeCsr n v = { s with mcfg := (s.writeCsr n v).mcfg, tagaddr := (s.writeCsr n v).tagaddr
                              ccmMlen := (s.writeCsr n v).ccmMlen, ccmAlen := (s.writeCsr n v).ccmAlen } := by
  unfold State.writeCsr
  split <;> rfl

@[simp] theorem writeCsr_zero (v : Word32) : s.writeCsr 0 v = { s with mcfg := v } := rfl
@[simp] theorem writeCsr_one (v : Word32) : s.writeCsr 1 v = { s with tagaddr := v } := rfl
@[simp] theorem writeCsr_two (v : Word32) : s.writeCsr 2 v = { s with ccmMlen := v } := rfl
@[simp] theorem writeCsr_three (v : Word32) : s.writeCsr 3 v = { s with ccmAlen := v } := rfl

/-- A register other than the one written keeps its value and valid bit (41_biguint_data.md R99). -/
theorem writeReg_other (r q : Reg) (v : Nat) (h : q ≠ r) : (s.writeReg r v).bigReg q = s.bigReg q := by
  simp only [State.bigReg, State.writeReg]
  exact Vector.getElem_set_ne _ _ fun e => h (Fin.ext e.symm)

/-- The register written is valid and holds the value (00_scope.md R19). -/
theorem writeReg_same (r : Reg) (v : Nat) : (s.writeReg r v).readReg r = some v := by
  simp [State.readReg, State.bigReg, State.writeReg]

/-- A register reads as a value exactly when it is valid and holds it (10_state.md R26). -/
theorem readReg_eq_some (r : Reg) (v : Nat) : s.readReg r = some v ↔ s.regs[r.val] = { valid := true, value := v } := by
  unfold State.readReg State.bigReg
  generalize s.regs[r.val] = x
  rcases x with ⟨_ | _, y⟩ <;> simp

/-- A register does not read exactly when it is invalid (10_state.md R26). -/
theorem readReg_eq_none (r : Reg) : s.readReg r = none ↔ s.regs[r.val].valid = false := by
  unfold State.readReg State.bigReg
  generalize s.regs[r.val] = x
  rcases x with ⟨_ | _, y⟩ <;> simp

end Sys2Proof.Laws
end

