-- ==== Sys2Proof/Laws/Ops.lean ====
section
/-! SUPPORT. One lemma per shared operation, saying everything it can do. -/

namespace Sys2Proof.Laws

open Sys2Proof.Machine

@[simp] theorem finish_ok (s : State) : finish (.ok s) = .next s.commit := rfl

@[simp] theorem finish_raise (c : FaultCode) (s : State) : finish (.raise c s) = .next (s.takeFault c) := rfl

/-- The end of a step is always a next state: the command is counted, or its fault is taken (40_control.md R90). -/
theorem finish_cases (r : Result) :
    (∃ s, r = .ok s ∧ finish r = .next s.commit) ∨ ∃ c s, r = .raise c s ∧ finish r = .next (s.takeFault c) := by
  cases r with
  | ok s => exact .inl ⟨s, rfl, rfl⟩
  | raise c s => exact .inr ⟨c, s, rfl, rfl⟩

/-- A source register is read if it is valid, and REG_UNINIT raised if not (41_biguint_data.md R96). -/
theorem source_cases (s : State) (r : Reg) (k : Nat → Result) :
    (∃ v, s.readReg r = some v ∧ s.source r k = k v) ∨ (s.readReg r = none ∧ s.source r k = .raise .regUninit s) := by
  unfold State.source
  cases h : s.readReg r with
  | none => exact .inr ⟨rfl, rfl⟩
  | some v => exact .inl ⟨v, rfl, rfl⟩

/-- A source that is valid is read. -/
theorem source_of_holds (s : State) (r : Reg) (v : Nat) (k : Nat → Result)
    (h : s.regs[r.val] = { valid := true, value := v }) : s.source r k = k v := by
  simp [State.source, (readReg_eq_some s r v).mpr h]

/-- A source that is invalid raises REG_UNINIT. -/
theorem source_of_lacks (s : State) (r : Reg) (k : Nat → Result) (h : s.regs[r.val].valid = false) :
    s.source r k = .raise .regUninit s := by
  simp [State.source, (readReg_eq_none s r).mpr h]

/-- A result is written if it fits a big register, and CAPACITY raised if not (41_biguint_data.md R97). -/
theorem putBounded_cases (s : State) (r : Reg) (v : Nat) :
    (v < Config.CAPACITY ∧ s.putBounded r v = .ok (s.putReg r v))
      ∨ (Config.CAPACITY ≤ v ∧ s.putBounded r v = .raise .capacity s) := by
  unfold State.putBounded
  split
  · next h => exact .inr ⟨h, rfl⟩
  · next h => exact .inl ⟨Nat.not_le.mp h, rfl⟩

/-- No check holds exactly when the command goes on (60_exceptions.md R194). -/
theorem firstFault_eq_none (l : List (Bool × FaultCode)) : firstFault l = none ↔ ∀ p ∈ l, p.1 = false := by
  induction l with
  | nil => simp [firstFault]
  | cons p l ih => obtain ⟨b, c⟩ := p; cases b <;> simp [firstFault, ih]

/-- The fault found is one of the checks that hold (60_exceptions.md R194). -/
theorem firstFault_mem (l : List (Bool × FaultCode)) (c : FaultCode) (h : firstFault l = some c) : (true, c) ∈ l := by
  induction l with
  | nil => simp [firstFault] at h
  | cons p l ih =>
    obtain ⟨b, d⟩ := p
    cases b with
    | false => exact List.mem_cons_of_mem _ (ih (by simpa [firstFault] using h))
    | true => simp only [firstFault, if_true, Option.some.injEq] at h; simp [h]

/-- A region is in bounds exactly when it ends inside BUF (20_memory.md R56). -/
@[simp] theorem inBounds_iff (a n : Nat) : inBounds a n = true ↔ a + n ≤ Config.BUF_BYTES := by simp [inBounds]

/-- `be_n(v)` has n bytes (00_scope.md R17). -/
@[simp] theorem length_beBytes (n v : Nat) : (beBytes n v).length = n := by
  induction n with
  | zero => rfl
  | succ n ih => simp [beBytes, ih]

/-- Byte k of `be_n(v)`, the most significant first (00_scope.md R17). -/
theorem getElem_beBytes (n v k : Nat) (h : k < (beBytes n v).length) :
    (beBytes n v)[k] = BitVec.ofNat 8 (v / 2 ^ (8 * (n - 1 - k))) := by
  induction n generalizing k with
  | zero => simp at h
  | succ n ih =>
    cases k with
    | zero => simp [beBytes, Nat.shiftRight_eq_div_pow]
    | succ k =>
      simp only [beBytes, List.getElem_cons_succ]
      rw [ih]
      congr 4
      omega

/-- `be` from an accumulator. -/
theorem foldl_be (s : Bytes) (acc : Nat) :
    s.foldl (fun acc b => acc * 256 + b.toNat) acc = acc * 256 ^ s.length + be s := by
  induction s generalizing acc with
  | nil => simp [be]
  | cons b s ih =>
    unfold be
    simp only [List.foldl_cons, List.length_cons]
    rw [ih, ih (0 * 256 + b.toNat)]
    ring

/-- `be` of a byte and a string (00_scope.md R17). -/
theorem be_cons (b : Byte) (s : Bytes) : be (b :: s) = b.toNat * 256 ^ s.length + be s := by
  have h := foldl_be s (0 * 256 + b.toNat)
  simpa [be] using h

/-- `be` of a concatenation (00_scope.md R17). -/
theorem be_append (s t : Bytes) : be (s ++ t) = be s * 256 ^ t.length + be t := by
  unfold be
  rw [List.foldl_append, foldl_be]
  rfl

/-- `be` of n bytes is below 2^(8n) (00_scope.md R17). -/
theorem be_lt (s : Bytes) : be s < 256 ^ s.length := by
  induction s with
  | nil => simp [be]
  | cons b s ih =>
    rw [be_cons, List.length_cons, pow_succ]
    have hb : b.toNat ≤ 255 := by have := b.isLt; omega
    have := Nat.mul_le_mul_right (256 ^ s.length) hb
    omega

/-- `be(be_n(v))` is v modulo 2^(8n) (00_scope.md R17). -/
theorem be_beBytes (n v : Nat) : be (beBytes n v) = v % 256 ^ n := by
  induction n with
  | zero => simp [beBytes, be, Nat.mod_one]
  | succ n ih =>
    have h8 : 2 ^ (8 * n) = 256 ^ n := by rw [Nat.pow_mul]
    rw [beBytes, be_cons, ih, length_beBytes, BitVec.toNat_ofNat, Nat.shiftRight_eq_div_pow, h8]
    change v / 256 ^ n % 256 * 256 ^ n + v % 256 ^ n = v % 256 ^ (n + 1)
    have h := Nat.mod_mul (x := v) (a := 256 ^ n) (b := 256)
    rw [Nat.pow_succ, h, Nat.mul_comm (256 ^ n), Nat.add_comm]

/-- `be_n(be(s))` is s for s of n bytes (00_scope.md R17). -/
theorem beBytes_be (s : Bytes) : beBytes s.length (be s) = s := by
  induction s with
  | nil => rfl
  | cons b s ih =>
    have h8 : 2 ^ (8 * s.length) = 256 ^ s.length := by rw [Nat.pow_mul]
    have hlt := be_lt s
    have hpos : 0 < 256 ^ s.length := Nat.pos_of_ne_zero (by positivity)
    have hdiv : be (b :: s) / 256 ^ s.length = b.toNat := by
      rw [be_cons, Nat.mul_comm, Nat.mul_add_div hpos, Nat.div_eq_of_lt hlt, Nat.add_zero]
    have htail : ∀ n, n ≤ s.length → beBytes n (be (b :: s)) = beBytes n (be s) := by
      intro n hn
      refine List.ext_getElem (by simp) fun k h1 h2 => ?_
      rw [getElem_beBytes, getElem_beBytes, be_cons]
      refine BitVec.eq_of_toNat_eq ?_
      simp only [length_beBytes] at h1
      have hsplit : b.toNat * 256 ^ s.length
          = 2 ^ (8 * (n - 1 - k)) * (b.toNat * 256 ^ (s.length - (n - 1 - k))) := by
        have : 2 ^ (8 * (n - 1 - k)) = 256 ^ (n - 1 - k) := by rw [Nat.pow_mul]
        rw [this, Nat.mul_left_comm, ← pow_add]
        congr 2
        omega
      have hmul : 256 ∣ b.toNat * 256 ^ (s.length - (n - 1 - k)) :=
        Dvd.dvd.mul_left (dvd_pow_self 256 (by omega)) _
      obtain ⟨q, hq⟩ := hmul
      rw [hsplit, Nat.mul_add_div (by positivity), hq]
      simp [BitVec.toNat_ofNat, Nat.add_mod]
    rw [List.length_cons, beBytes, Nat.shiftRight_eq_div_pow, h8, hdiv, htail _ (Nat.le_refl _), ih]
    simp

/-- The comparison of R210 over strings of one length answers whether they are equal. -/
theorem fullEqual_iff (a b : Bytes) (h : a.length = b.length) : fullEqual a b = true ↔ a = b := by
  have key : ∀ (a b : Bytes), a.length = b.length → ∀ acc : Byte,
      ((xorBytes a b).foldl (fun acc d => acc ||| d) acc = 0#8 ↔ acc = 0#8 ∧ a = b) := by
    intro a
    induction a with
    | nil => intro b hb acc; cases b <;> simp_all [xorBytes]
    | cons x a ih =>
      intro b hb acc
      cases b with
      | nil => simp at hb
      | cons y b =>
        have := ih b (by simpa using hb) (acc ||| (x ^^^ y))
        simp only [xorBytes, List.zipWith_cons_cons, List.foldl_cons] at this ⊢
        rw [this, BitVec.or_eq_zero_iff, BitVec.xor_eq_zero_iff, List.cons.injEq, and_assoc]
  simpa [fullEqual] using key a b h 0#8

end Sys2Proof.Laws
end

