-- ==== Sys2Proof/Laws/Arithmetic.lean ====
section
/-! SUPPORT. The arithmetic of the BAU computes the values the rules name. -/

namespace Sys2Proof.Laws

open Sys2Proof.Machine

/-- The square-and-multiply loop computes `acc · b^e` modulo m. -/
theorem powModLoop_mod (m fuel b e acc : Nat) (h : e ≤ fuel) : powModLoop m fuel b e acc % m = acc * b ^ e % m := by
  induction fuel generalizing b e acc with
  | zero => simp [powModLoop, Nat.le_zero.mp h]
  | succ fuel ih =>
    unfold powModLoop
    split
    · next he => simp [he]
    · next he =>
      rw [ih _ _ _ (by omega)]
      have hb : (b * b % m) ^ (e / 2) % m = b ^ (2 * (e / 2)) % m := by
        rw [← Nat.pow_mod, Nat.pow_mul, pow_two]
      split
      · next ho =>
        have he2 : e = 2 * (e / 2) + 1 := by omega
        rw [Nat.mul_mod, hb, Nat.mod_mod, ← Nat.mul_mod]
        conv_rhs => rw [he2, pow_succ]
        ring_nf
      · next ho =>
        have he2 : e = 2 * (e / 2) := by omega
        rw [Nat.mul_mod, hb, ← Nat.mul_mod]
        conv_rhs => rw [he2]

/-- The loop stays below m. -/
theorem powModLoop_lt (m fuel b e acc : Nat) (h : acc < m) : powModLoop m fuel b e acc < m := by
  induction fuel generalizing b e acc with
  | zero => exact h
  | succ fuel ih =>
    unfold powModLoop
    split
    · exact h
    · refine ih _ _ _ ?_
      split
      · exact Nat.mod_lt _ (by omega)
      · exact h

/-- Modular exponentiation computes `(b^e) mod m` for every m but 0 (43_biguint_modular.md R117). -/
theorem powMod_eq (b e m : Nat) (hm : m ≠ 0) : powMod b e m = b ^ e % m := by
  have hlt : powMod b e m < m := powModLoop_lt _ _ _ _ _ (Nat.mod_lt _ (Nat.pos_of_ne_zero hm))
  have h := powModLoop_mod m e (b % m) e (1 % m) (Nat.le_refl e)
  rw [← Nat.mod_eq_of_lt hlt]
  unfold powMod
  rw [h, Nat.mul_mod, Nat.mod_mod, ← Nat.pow_mod, ← Nat.mul_mod, one_mul]

/-- Euclid's loop keeps `a·t0 ≡ r0` and `a·t1 ≡ r1`, so it ends in the coefficient of the gcd. -/
theorem invModLoop_spec (m a fuel r0 r1 t0 t1 : Nat) (hm : 0 < m) (hf : r1 ≤ fuel) (ht0 : t0 < m) (ht1 : t1 < m)
    (h0 : a * t0 ≡ r0 [MOD m]) (h1 : a * t1 ≡ r1 [MOD m]) :
    invModLoop m fuel r0 r1 t0 t1 < m ∧ a * invModLoop m fuel r0 r1 t0 t1 ≡ Nat.gcd r0 r1 [MOD m] := by
  induction fuel generalizing r0 r1 t0 t1 with
  | zero =>
    have : r1 = 0 := by omega
    subst this
    exact ⟨ht0, by simpa [invModLoop] using h0⟩
  | succ fuel ih =>
    unfold invModLoop
    split
    · next hr => subst hr; exact ⟨ht0, by simpa using h0⟩
    · next hr =>
      have hpos : 0 < r1 := Nat.pos_of_ne_zero hr
      have hlt : r0 % r1 < r1 := Nat.mod_lt _ hpos
      have hq : r0 / r1 * t1 % m < m := Nat.mod_lt _ hm
      have step : a * ((t0 + (m - r0 / r1 * t1 % m)) % m) ≡ r0 % r1 [MOD m] := by
        refine Nat.ModEq.add_right_cancel' (r0 / r1 * r1) ?_
        have e1 : r0 % r1 + r0 / r1 * r1 = r0 := by rw [Nat.mul_comm]; exact Nat.mod_add_div r0 r1
        rw [e1]
        have e2 : a * ((t0 + (m - r0 / r1 * t1 % m)) % m) + r0 / r1 * r1
            ≡ a * (t0 + (m - r0 / r1 * t1 % m)) + a * (r0 / r1 * t1 % m) [MOD m] := by
          refine Nat.ModEq.add ((Nat.mod_modEq _ m).mul_left a) ?_
          have : r0 / r1 * r1 ≡ r0 / r1 * (a * t1) [MOD m] := (h1.symm.mul_left _)
          refine this.trans ?_
          have e3 : r0 / r1 * (a * t1) = a * (r0 / r1 * t1) := by ring
          rw [e3]
          exact ((Nat.mod_modEq _ m).symm.mul_left a)
        refine e2.trans ?_
        have e4 : a * (t0 + (m - r0 / r1 * t1 % m)) + a * (r0 / r1 * t1 % m) = a * t0 + a * m := by
          rw [← Nat.mul_add, ← Nat.mul_add]
          congr 1
          omega
        rw [e4]
        have e5 : a * t0 + a * m ≡ a * t0 + 0 [MOD m] :=
          Nat.ModEq.add_left _ ((Nat.modEq_zero_iff_dvd).mpr (Dvd.intro_left a rfl))
        exact e5.trans (by simpa using h0)
      have := ih r1 (r0 % r1) t1 ((t0 + (m - r0 / r1 * t1 % m)) % m) (by omega) ht1 (Nat.mod_lt _ hm) h1 step
      refine ⟨this.1, this.2.trans ?_⟩
      rw [Nat.gcd_comm r0 r1, Nat.gcd_rec r1 r0, Nat.gcd_comm]

/-- The inverse is below m and inverts (43_biguint_modular.md R119). -/
theorem invMod_spec (a m : Nat) (hm : 1 < m) (h : Nat.gcd a m = 1) : invMod a m < m ∧ a * invMod a m % m = 1 := by
  have h1m : 1 % m = 1 := Nat.mod_eq_of_lt hm
  have := invModLoop_spec m a m m (a % m) 0 (1 % m) (by omega) (Nat.le_of_lt (Nat.mod_lt _ (by omega))) (by omega)
    (by rw [h1m]; exact hm) (by simpa using (Nat.modEq_zero_iff_dvd.mpr (dvd_refl m)).symm)
    (by rw [h1m, mul_one]; exact (Nat.mod_modEq a m).symm)
  refine ⟨this.1, ?_⟩
  have hg : Nat.gcd m (a % m) = 1 := by rw [Nat.gcd_comm, ← Nat.gcd_rec, Nat.gcd_comm]; exact h
  have h2 := this.2
  rw [hg] at h2
  have : a * invMod a m % m = 1 % m := h2
  rw [this, h1m]

/-- A positive number is 2^ntz times an odd number (00_scope.md R20). -/
theorem ntzFuel_spec (fuel v : Nat) (hv : 0 < v) (hf : v ≤ fuel) :
    2 ^ ntzFuel fuel v ∣ v ∧ v / 2 ^ ntzFuel fuel v % 2 = 1 := by
  induction fuel generalizing v with
  | zero => omega
  | succ fuel ih =>
    unfold ntzFuel
    split
    · next he =>
      obtain ⟨hd, ho⟩ := ih (v / 2) (by omega) (by omega)
      refine ⟨?_, ?_⟩
      · rw [pow_succ, Nat.mul_comm]
        have := Nat.mul_dvd_mul_left 2 hd
        rwa [Nat.mul_div_cancel' (Nat.dvd_of_mod_eq_zero he)] at this
      · rw [pow_succ, Nat.mul_comm, ← Nat.div_div_eq_div_mul]
        exact ho
    · next he => exact ⟨by simp, by simpa using (by omega : v % 2 = 1)⟩

/-- `v = 2^ntz(v) · d` with d odd, for v > 0. -/
theorem ntz_spec (v : Nat) (hv : 0 < v) : 2 ^ ntz v ∣ v ∧ v / 2 ^ ntz v % 2 = 1 :=
  ntzFuel_spec v v hv (Nat.le_refl v)

/-- Word k is `(v div 2^(64k)) mod 2^64` (10_state.md R27). -/
theorem wordAt_eq (v k : Nat) : wordAt v k = v / 2 ^ (Config.W * k) % 2 ^ Config.W := by
  rw [wordAt, Nat.shiftRight_eq_div_pow]

/-- The value with word k replaced, as R105 writes it. -/
theorem setWordAt_eq (old k v : Nat) :
    setWordAt old k v
      = old - old / 2 ^ (Config.W * k) % 2 ^ Config.W * 2 ^ (Config.W * k) + v * 2 ^ (Config.W * k) := by
  rw [setWordAt, wordAt_eq, Nat.shiftLeft_eq, Nat.shiftLeft_eq]

/-- A value has at most n bits exactly when it is below 2^n (00_scope.md R20). -/
theorem bitlen_le_iff (v n : Nat) : bitlen v ≤ n ↔ v < 2 ^ n := by
  unfold bitlen
  split
  · next h => simp [h]
  · next h => rw [Nat.succ_le_iff, Nat.log2_lt h]

end Sys2Proof.Laws
end

