-- ==== Sys2Proof/Laws/PerInstr.lean ====
section
/-! SUPPORT. Facts about every command, one lemma per constructor of Instr. -/

namespace Sys2Proof.Laws

/-- The operand fields of a command leave the opcode byte free. -/
def OpcodeField.Statement (i : Instr) : Prop := bits (encode i) 7 0 = opcodeOf i

theorem OpcodeField.nop : OpcodeField.Statement .nop := by
  simp [OpcodeField.Statement, bits, encode, opcodeOf, operandFields]

theorem OpcodeField.wcsr (csr : Nat) (imm : Word32) : OpcodeField.Statement (.wcsr csr imm) := by
  simp [OpcodeField.Statement, bits, encode, opcodeOf, operandFields]
  omega

theorem OpcodeField.minit (a : Nat) (l : Nat) : OpcodeField.Statement (.minit a l) := by
  simp [OpcodeField.Statement, bits, encode, opcodeOf, operandFields]
  omega

theorem OpcodeField.maad (a : Nat) (l : Nat) : OpcodeField.Statement (.maad a l) := by
  simp [OpcodeField.Statement, bits, encode, opcodeOf, operandFields]
  omega

theorem OpcodeField.mproc (a : Nat) (b : Nat) (l : Nat) : OpcodeField.Statement (.mproc a b l) := by
  simp [OpcodeField.Statement, bits, encode, opcodeOf, operandFields]
  omega

theorem OpcodeField.mfinal (a : Nat) (b : Nat) (l : Nat) : OpcodeField.Statement (.mfinal a b l) := by
  simp [OpcodeField.Statement, bits, encode, opcodeOf, operandFields]
  omega

theorem OpcodeField.mreset : OpcodeField.Statement .mreset := by
  simp [OpcodeField.Statement, bits, encode, opcodeOf, operandFields]

theorem OpcodeField.bldi (rd : Reg) (imm : Nat) : OpcodeField.Statement (.bldi rd imm) := by
  simp [OpcodeField.Statement, bits, encode, opcodeOf, operandFields]
  omega

theorem OpcodeField.bld (r : Reg) (a : Nat) (l : Nat) : OpcodeField.Statement (.bld r a l) := by
  simp [OpcodeField.Statement, bits, encode, opcodeOf, operandFields]
  omega

theorem OpcodeField.bst (r : Reg) (a : Nat) (l : Nat) : OpcodeField.Statement (.bst r a l) := by
  simp [OpcodeField.Statement, bits, encode, opcodeOf, operandFields]
  omega

theorem OpcodeField.bmov (rd : Reg) (rs1 : Reg) : OpcodeField.Statement (.bmov rd rs1) := by
  simp [OpcodeField.Statement, bits, encode, opcodeOf, operandFields]
  omega

theorem OpcodeField.bgetw (rd : Reg) (rs1 : Reg) (idx : Nat) : OpcodeField.Statement (.bgetw rd rs1 idx) := by
  simp [OpcodeField.Statement, bits, encode, opcodeOf, operandFields]
  omega

theorem OpcodeField.bsetw (rd : Reg) (rs1 : Reg) (idx : Nat) : OpcodeField.Statement (.bsetw rd rs1 idx) := by
  simp [OpcodeField.Statement, bits, encode, opcodeOf, operandFields]
  omega

theorem OpcodeField.badd (rd : Reg) (rs1 : Reg) (rs2 : Reg) : OpcodeField.Statement (.badd rd rs1 rs2) := by
  simp [OpcodeField.Statement, bits, encode, opcodeOf, operandFields]
  omega

theorem OpcodeField.bsub (rd : Reg) (rs1 : Reg) (rs2 : Reg) : OpcodeField.Statement (.bsub rd rs1 rs2) := by
  simp [OpcodeField.Statement, bits, encode, opcodeOf, operandFields]
  omega

theorem OpcodeField.bmulw (rd : Reg) (rs1 : Reg) (rs2 : Reg) : OpcodeField.Statement (.bmulw rd rs1 rs2) := by
  simp [OpcodeField.Statement, bits, encode, opcodeOf, operandFields]
  omega

theorem OpcodeField.bmul (rd : Reg) (rs1 : Reg) (rs2 : Reg) : OpcodeField.Statement (.bmul rd rs1 rs2) := by
  simp [OpcodeField.Statement, bits, encode, opcodeOf, operandFields]
  omega

theorem OpcodeField.bdiv (rd : Reg) (rs1 : Reg) (rs2 : Reg) (rs3 : Reg) : OpcodeField.Statement (.bdiv rd rs1 rs2 rs3) := by
  simp [OpcodeField.Statement, bits, encode, opcodeOf, operandFields]
  omega

theorem OpcodeField.bshl (rd : Reg) (rs1 : Reg) (n : Nat) : OpcodeField.Statement (.bshl rd rs1 n) := by
  simp [OpcodeField.Statement, bits, encode, opcodeOf, operandFields]
  omega

theorem OpcodeField.bshr (rd : Reg) (rs1 : Reg) (n : Nat) : OpcodeField.Statement (.bshr rd rs1 n) := by
  simp [OpcodeField.Statement, bits, encode, opcodeOf, operandFields]
  omega

theorem OpcodeField.band (rd : Reg) (rs1 : Reg) (rs2 : Reg) : OpcodeField.Statement (.band rd rs1 rs2) := by
  simp [OpcodeField.Statement, bits, encode, opcodeOf, operandFields]
  omega

theorem OpcodeField.bor (rd : Reg) (rs1 : Reg) (rs2 : Reg) : OpcodeField.Statement (.bor rd rs1 rs2) := by
  simp [OpcodeField.Statement, bits, encode, opcodeOf, operandFields]
  omega

theorem OpcodeField.bxor (rd : Reg) (rs1 : Reg) (rs2 : Reg) : OpcodeField.Statement (.bxor rd rs1 rs2) := by
  simp [OpcodeField.Statement, bits, encode, opcodeOf, operandFields]
  omega

theorem OpcodeField.bcmp (rs1 : Reg) (rs2 : Reg) : OpcodeField.Statement (.bcmp rs1 rs2) := by
  simp [OpcodeField.Statement, bits, encode, opcodeOf, operandFields]
  omega

theorem OpcodeField.bpow (rd : Reg) (rs1 : Reg) (rs2 : Reg) (rs3 : Reg) : OpcodeField.Statement (.bpow rd rs1 rs2 rs3) := by
  simp [OpcodeField.Statement, bits, encode, opcodeOf, operandFields]
  omega

theorem OpcodeField.bgcd (rd : Reg) (rs1 : Reg) (rs2 : Reg) : OpcodeField.Statement (.bgcd rd rs1 rs2) := by
  simp [OpcodeField.Statement, bits, encode, opcodeOf, operandFields]
  omega

theorem OpcodeField.binv (rd : Reg) (rs1 : Reg) (rs2 : Reg) : OpcodeField.Statement (.binv rd rs1 rs2) := by
  simp [OpcodeField.Statement, bits, encode, opcodeOf, operandFields]
  omega

theorem OpcodeField.bsprp (rs1 : Reg) (rs2 : Reg) : OpcodeField.Statement (.bsprp rs1 rs2) := by
  simp [OpcodeField.Statement, bits, encode, opcodeOf, operandFields]
  omega

end Sys2Proof.Laws
end

