-- ==== Sys2Proof/Tests/Slice0.lean ====
section
/-! SUPPORT. Tests: words written out from 30_encoding.md decode to their commands, ill-formed commands are refused, single
steps give the values of the spec's examples and vectors (95_test_vectors.md), and every statement that has hypotheses has
a state that meets them. -/

set_option Elab.async false

namespace Sys2Proof.Tests

open Sys2Proof.Machine Sys2Proof.Laws

/-! ## Well-formedness: one ill-formed term for each check -/

theorem test_wf_wcsr : (Instr.wcsr 256 0).wellFormed = false ∧ (Instr.wcsr 255 0).wellFormed = true := by decide
theorem test_wf_minit : (Instr.minit 65536 0).wellFormed = false ∧ (Instr.minit 0 65536).wellFormed = false := by decide
theorem test_wf_maad : (Instr.maad 65536 0).wellFormed = false ∧ (Instr.maad 0 65536).wellFormed = false := by decide
theorem test_wf_mproc :
    (Instr.mproc 65536 0 0).wellFormed = false ∧ (Instr.mproc 0 65536 0).wellFormed = false
      ∧ (Instr.mproc 0 0 65536).wellFormed = false := by decide
theorem test_wf_mfinal :
    (Instr.mfinal 65536 0 0).wellFormed = false ∧ (Instr.mfinal 0 65536 0).wellFormed = false
      ∧ (Instr.mfinal 0 0 65536).wellFormed = false := by decide
theorem test_wf_bldi : (Instr.bldi 0 0x1000000000000).wellFormed = false := by decide
theorem test_wf_bld : (Instr.bld 0 65536 0).wellFormed = false ∧ (Instr.bld 0 0 65536).wellFormed = false := by decide
theorem test_wf_bst : (Instr.bst 0 65536 0).wellFormed = false ∧ (Instr.bst 0 0 65536).wellFormed = false := by decide
theorem test_wf_word_and_shift :
    (Instr.bgetw 0 0 0x100000000).wellFormed = false ∧ (Instr.bsetw 0 0 0x100000000).wellFormed = false
      ∧ (Instr.bshl 0 0 0x100000000).wellFormed = false ∧ (Instr.bshr 0 0 0x100000000).wellFormed = false := by decide

/-! ## Decoding: every constructor, from a word put together by hand from its format -/

theorem test_decode_control :
    decode 0x0000000000000000#64 = .ok .nop ∧ decode 0x0000000000210001#64 = .ok (.wcsr 0 0x21#32)
      ∧ decode 0x0000000080010301#64 = .ok (.wcsr 3 0x8001#32) := by decide
theorem test_decode_mode_engine :
    decode 0x0010000000000010#64 = .ok (.minit 0 16) ∧ decode 0x0014000000400011#64 = .ok (.maad 0x40 20)
      ∧ decode 0x0010080004000012#64 = .ok (.mproc 0x400 0x800 16)
      ∧ decode 0x0010080004000013#64 = .ok (.mfinal 0x400 0x800 16) ∧ decode 0x0000000000000014#64 = .ok .mreset := by
  decide
theorem test_decode_data_movement :
    decode 0x00000000003d0120#64 = .ok (.bldi 1 61) ∧ decode 0x0004000000100121#64 = .ok (.bld 1 0x10 4)
      ∧ decode 0x0003000000200122#64 = .ok (.bst 1 0x20 3) ∧ decode 0x0000000000001323#64 = .ok (.bmov 3 1)
      ∧ decode 0x0000000500009d24#64 = .ok (.bgetw 13 9 5) ∧ decode 0x0000000200005c25#64 = .ok (.bsetw 12 5 2) := by
  decide
theorem test_decode_arithmetic :
    decode 0x0000000000043530#64 = .ok (.badd 5 3 4) ∧ decode 0x0000000000026731#64 = .ok (.bsub 7 6 2)
      ∧ decode 0x0000000000056932#64 = .ok (.bmulw 9 6 5) ∧ decode 0x0000000000076a33#64 = .ok (.bmul 10 6 7)
      ∧ decode 0x0000000000badc34#64 = .ok (.bdiv 12 13 10 11) := by decide
theorem test_decode_shifts_and_logic :
    decode 0x0000001000001335#64 = .ok (.bshl 3 1 16) ∧ decode 0x000000c80000ac36#64 = .ok (.bshr 12 10 200)
      ∧ decode 0x0000000000021337#64 = .ok (.band 3 1 2) ∧ decode 0x0000000000021338#64 = .ok (.bor 3 1 2)
      ∧ decode 0x0000000000021339#64 = .ok (.bxor 3 1 2) ∧ decode 0x000000000002103a#64 = .ok (.bcmp 1 2) := by decide
theorem test_decode_modular :
    decode 0x0000000000321440#64 = .ok (.bpow 4 1 2 3) ∧ decode 0x0000000000021341#64 = .ok (.bgcd 3 1 2)
      ∧ decode 0x0000000000021342#64 = .ok (.binv 3 1 2) ∧ decode 0x0000000000021043#64 = .ok (.bsprp 1 2) := by decide
/-- Vectors CT-1, CT-2, CT-6, CT-7, CT-8. -/
theorem test_decode_rejects :
    decode 0x00000000000000ff#64 = .error .illegalOpcode ∧ decode 0x0000000000000100#64 = .error .reservedField
      ∧ decode 0x0000000100000010#64 = .error .reservedField ∧ decode 0x0000000000032123#64 = .error .reservedField
      ∧ decode 0x000000000003213a#64 = .error .reservedField := by decide

/-! ## Helpers -/

/-- Reset with the word `w` at the head of the queue and a NOP behind it. -/
def queued (w : Word64) : State := { State.reset with queue := [w, 0#64] }

/-- Registers loaded. -/
def loaded (l : List (Reg × Nat)) (s : State) : State := l.foldl (fun s p => s.writeReg p.1 p.2) s

/-- Reset with registers loaded, the word `w` queued and a NOP behind it. -/
def bau (w : Word64) (l : List (Reg × Nat)) : State := loaded l (queued w)

/-- BUF bytes written. -/
def stored (a : Nat) (b : Bytes) (s : State) : State := { s with buf := s.buf.writeBytes a b }

/-- A session in a phase, with a context. -/
def session (ph : SessionPhase) (c : Ctx) : State :=
  { queued 0#64 with ctx := c, phase := { PhaseReg.zero with ph := ph, smode := c.mode, sdir := c.dir } }

/-- The state after a step that goes on. -/
def after : Host.Outcome State Fault Refusal → State
  | .next t => t
  | _ => State.reset

/-- The state a command left, whether it raised a fault or not. -/
def left : Result → State
  | .ok s => s
  | .raise _ s => s

/-- A collaborator that knows the blocks of one vector, in 16-byte blocks, and fails on every other. -/
def table (l : List (Block × Block)) : Cipher :=
  { wide := true
    enc := fun b => (l.find? fun p => p.1 == b).map fun p => p.2
    dec := fun b => (l.find? fun p => p.2 == b).map fun p => p.1 }

/-- A collaborator that adds a constant by XOR, its own inverse. -/
def masked (wide : Bool) : Cipher := { wide := wide, enc := fun b => some (b ^^^ 0xA5#128), dec := fun b => some (b ^^^ 0xA5#128) }

/-! ## Single steps: examples and vectors of the spec -/

theorem test_nop : after (step (queued 0#64)) = { State.reset with queue := [0#64], cmdcnt := 1 } := by decide +kernel
/-- 40_control.md R94, the example. -/
theorem test_wcsr : (after (step (queued 0x0000000000210001#64))).mcfg = 0x21#32 := by decide +kernel
/-- Vectors CT-3, CT-4, CT-5. -/
theorem test_wcsr_faults :
    (after (step (queued 0x0000000000000401#64))).err = some .illegalCsr
      ∧ (after (step (queued 0x0000000040000001#64))).err = some .reservedField
      ∧ (after (step (queued 0x0000000100000101#64))).err = some .reservedField := by decide +kernel
/-- Vector CT-1 and the fault entry of 60_exceptions.md R195. -/
theorem test_fault_entry :
    after (step (queued 0x00000000000000ff#64))
      = { State.reset with err := some .illegalOpcode, errcmd := 0xff#64 } := by decide +kernel
theorem test_bldi : (after (step (bau 0x00000000003d0120#64 []))).readReg 1 = some 61 := by decide +kernel
/-- Vector BA-24. -/
theorem test_bld :
    (after (step (stored 0x10 [0#8, 0#8, 1#8, 2#8] (bau 0x0004000000100121#64 [])))).readReg 1 = some 0x102 := by
  decide +kernel
/-- Vector BA-27. -/
theorem test_bld_bounds : (after (exec (.bld 1 4090 8) (bau 0#64 []))).err = some .bufBounds := by decide +kernel
/-- Vector BA-25. -/
theorem test_bst :
    (after (step (bau 0x0003000000200122#64 [(1, 0x102)]))).buf = [(0x21, 1#8), (0x22, 2#8)]
      ∧ (after (exec (.bst 1 0x20 1) (bau 0#64 [(1, 0x102)]))).err = some .operandRange := by decide +kernel
theorem test_bmov : (after (step (bau 0x0000000000001323#64 [(1, 61)]))).readReg 3 = some 61 := by decide +kernel
/-- Vector BA-18. -/
theorem test_bgetw :
    (after (exec (.bgetw 12 9 1) (bau 0#64 [(9, 0xfffffffffffffffe0000000000000001)]))).readReg 12
        = some 0xfffffffffffffffe
      ∧ (after (step (bau 0x0000000500009d24#64 [(9, 0xfffffffffffffffe0000000000000001)]))).readReg 13 = some 0 := by
  decide +kernel
/-- Vectors BA-19, BA-20, BA-21. -/
theorem test_bsetw :
    (after (step (bau 0x0000000200005c25#64 [(12, 1), (5, 0xffffffffffffffff)]))).readReg 12
        = some 0xffffffffffffffff00000000000000000000000000000001
      ∧ (after (exec (.bsetw 12 0 2) (bau 0#64 [(12, 0xffffffffffffffff00000000000000000000000000000001), (0, 0)]))).readReg 12
        = some 1
      ∧ (after (exec (.bsetw 12 6 0) (bau 0#64 [(12, 1), (6, 2 ^ 64)]))).err = some .operandRange := by decide +kernel
/-- Vectors BA-2, BA-3. -/
theorem test_badd :
    (after (step (bau 0x0000000000043530#64 [(3, 0xffffffffffff0000), (4, 0xffff)]))).readReg 5 = some 0xffffffffffffffff
      ∧ (after (exec (.badd 6 5 2) (bau 0#64 [(5, 0xffffffffffffffff), (2, 1)]))).readReg 6 = some 0x10000000000000000 := by
  decide +kernel
/-- Vector BA-14. -/
theorem test_badd_uninit : (after (exec (.badd 12 15 1) (bau 0#64 [(1, 1)]))).err = some .regUninit := by decide +kernel
/-- Vectors BA-5, BA-4. -/
theorem test_bsub :
    (after (step (bau 0x0000000000026731#64 [(6, 2 ^ 64), (2, 1)]))).readReg 7 = some 0xffffffffffffffff
      ∧ (after (exec (.bsub 7 2 6) (bau 0#64 [(6, 2 ^ 64), (2, 1)]))).err = some .underflow := by decide +kernel
/-- Vectors BA-8, BA-7. -/
theorem test_bmulw :
    (after (exec (.bmulw 9 5 5) (bau 0#64 [(5, 2 ^ 64 - 1)]))).readReg 9 = some 0xfffffffffffffffe0000000000000001
      ∧ (after (exec (.bmulw 9 6 6) (bau 0#64 [(6, 2 ^ 64)]))).err = some .operandRange := by decide +kernel
/-- Vector BA-9. -/
theorem test_bmul : (after (exec (.bmul 10 6 6) (bau 0#64 [(6, 2 ^ 64)]))).readReg 10 = some (2 ^ 128) := by decide +kernel
/-- Vector BA-10. -/
theorem test_bdiv :
    let t := after (exec (.bdiv 12 10 11 13) (bau 0#64 [(10, 2 ^ 128), (11, 7)]))
    t.readReg 12 = some 0x24924924924924924924924924924924 ∧ t.readReg 13 = some 4 ∧ t.flags.z = false := by decide +kernel
/-- Vectors BA-11, BA-12. -/
theorem test_bdiv_same_and_zero :
    (after (exec (.bdiv 14 10 11 14) (bau 0#64 [(10, 2 ^ 128), (11, 7)]))).readReg 14 = some 4
      ∧ (after (exec (.bdiv 12 10 0 13) (bau 0#64 [(10, 2 ^ 128), (0, 0)]))).err = some .divZero := by decide +kernel
/-- Vectors BA-16, BA-17. -/
theorem test_bshl :
    (after (exec (.bshl 12 2 4095) (bau 0#64 [(2, 1)]))).readReg 12 = some (2 ^ 4095)
      ∧ (after (exec (.bshl 12 2 4096) (bau 0#64 [(2, 1)]))).err = some .capacity
      ∧ (after (exec (.bshl 12 0 100000) (bau 0#64 [(0, 0)]))).readReg 12 = some 0 := by decide +kernel
/-- Vector BA-15. -/
theorem test_bshr :
    (after (step (bau 0x000000c80000ac36#64 [(10, 2 ^ 128)]))).readReg 12 = some 0
      ∧ (after (exec (.bshr 12 10 64) (bau 0#64 [(10, 2 ^ 128)]))).readReg 12 = some (2 ^ 64) := by decide +kernel
/-- Vector BA-22. -/
theorem test_band : (after (exec (.band 3 1 2) (bau 0#64 [(1, 0xf0f0), (2, 0x0ff0)]))).readReg 3 = some 0xf0 := by decide +kernel
theorem test_bor : (after (exec (.bor 3 1 2) (bau 0#64 [(1, 0xf0f0), (2, 0x0ff0)]))).readReg 3 = some 0xfff0 := by decide +kernel
theorem test_bxor :
    let t := after (exec (.bxor 3 1 1) (bau 0#64 [(1, 0xf0f0)]))
    t.readReg 3 = some 0 ∧ t.flags.z = true := by decide +kernel
/-- Vector BA-23. -/
theorem test_bcmp :
    (after (exec (.bcmp 1 2) { bau 0#64 [(1, 0xf0f0), (2, 0x0ff0)] with flags := { Flags.zero with z := true } })).flags.word
        = 0b1001#32
      ∧ (after (exec (.bcmp 2 1) (bau 0#64 [(1, 0xf0f0), (2, 0x0ff0)]))).flags.word = 0b0010#32 := by decide +kernel
/-- Vectors MO-1, MO-2, MO-3. -/
theorem test_bpow :
    (after (step (bau 0x0000000000321440#64 [(1, 4), (2, 13), (3, 497)]))).readReg 4 = some 445
      ∧ (after (exec (.bpow 4 1 5 6) (bau 0#64 [(1, 4), (5, 0), (6, 1)]))).readReg 4 = some 0
      ∧ (after (exec (.bpow 4 5 5 3) (bau 0#64 [(5, 0), (3, 497)]))).readReg 4 = some 1 := by decide +kernel
/-- Vectors MO-5, MO-6. -/
theorem test_bgcd :
    (after (exec (.bgcd 3 1 2) (bau 0#64 [(1, 1071), (2, 462)]))).readReg 3 = some 21
      ∧ (after (exec (.bgcd 3 1 5) (bau 0#64 [(1, 1071), (5, 0)]))).readReg 3 = some 1071 := by decide +kernel
/-- Vectors MO-7, MO-8. -/
theorem test_binv :
    (after (exec (.binv 3 1 2) (bau 0#64 [(1, 17), (2, 3120)]))).readReg 3 = some 2753
      ∧ (after (exec (.binv 3 1 2) (bau 0#64 [(1, 6), (2, 3120), (3, 99)]))).readReg 3 = some 99
      ∧ (after (exec (.binv 3 1 2) (bau 0#64 [(1, 6), (2, 3120), (3, 99)]))).flags.nr = true := by decide +kernel
/-- Vectors MO-10, MO-13. -/
theorem test_bsprp :
    (after (step (bau 0x0000000000021043#64 [(1, 2047), (2, 2)]))).flags.pp = true
      ∧ (after (exec (.bsprp 1 2) (bau 0#64 [(1, 2047), (2, 3)]))).flags.pp = false
      ∧ (after (exec (.bsprp 1 2) (bau 0#64 [(1, 3), (2, 3)]))).flags.pp = false := by decide +kernel
/-- Vector MO-11, base 41. -/
theorem test_bsprp_large :
    (after (exec (.bsprp 1 2) (bau 0#64 [(1, 318665857834031151167461), (2, 37)]))).flags.pp = true
      ∧ (after (exec (.bsprp 1 2) (bau 0#64 [(1, 318665857834031151167461), (2, 41)]))).flags.pp = false := by decide +kernel

/-- 44_mode_session.md R129, the example: PHASE 0x101 after MINIT of CBC with PKCS7. -/
theorem test_minit :
    (left (minit (table []) 0 16 { queued 0#64 with mcfg := 0x21#32 })).phase.word = 0x101#32 := by decide +kernel
/-- 46_mode_gcm.md R146 with a nonce of 12 zero bytes, the blocks of vector GCM-1. -/
theorem test_minit_gcm :
    let t := left (minit (table [(0, 0x66e94bd4ef8a2c3b884cfa59ca342b2e#128), (1, 0x58e2fccefa7e3061367f1d57a4e7455a#128)])
      0 12 { queued 0#64 with mcfg := 0x1006#32 })
    t.ctx.CB = 1#128 ∧ t.ctx.EJ0 = 0x58e2fccefa7e3061367f1d57a4e7455a#128 ∧ t.phase.ph = .ready := by decide +kernel
/-- Vectors GCM-7, CCM-7. -/
theorem test_minit_faults :
    minit (table []) 0 12 { queued 0#64 with mcfg := 0x0506#32 } = .raise .badConfig { queued 0#64 with mcfg := 0x0506#32 }
      ∧ minit (table []) 0 13 { queued 0#64 with mcfg := 0x0807#32, ccmMlen := 65536#32 }
        = .raise .length { queued 0#64 with mcfg := 0x0807#32, ccmMlen := 65536#32 } := by decide +kernel
theorem test_maad :
    (left (maad (table []) 0 0 (session .ready { Ctx.zero with mode := .gcm }))).phase.word = 0x609#32 := by decide +kernel
/-- 49_padding.md and 45_mode_basic.md: the first block of vector BM-1 with P1 at 0x400. -/
theorem test_mproc_cbc :
    let p1 : Block := 0x6bc1bee22e409f96e93d7e117393172a#128
    let iv : Block := 0x000102030405060708090a0b0c0d0e0f#128
    let c1 : Block := 0x7649abac8119b246cee98e9b12e9197d#128
    let t := left (mproc (table [(p1 ^^^ iv, c1)]) 0x400 0x800 16
      (stored 0x400 (blockBytes 16 p1) (session .ready { Ctx.zero with mode := .cbc, V := iv })))
    t.buf.readBytes 0x800 16 = blockBytes 16 c1 ∧ t.ctx.V = c1 ∧ t.outlen = 16 := by decide +kernel
/-- Vector GCM-2: one zero block, its ciphertext and its tag. -/
theorem test_mfinal_gcm :
    let c := { Ctx.zero with
      mode := .gcm, taglen := 16, H := 0x66e94bd4ef8a2c3b884cfa59ca342b2e#128, CB := 1#128
      EJ0 := 0x58e2fccefa7e3061367f1d57a4e7455a#128 }
    let t := left (mfinal (table [(2, 0x0388dace60b6a392f328c2b971b2fe78#128)]) 0 0x800 16 (session .ready c))
    t.buf.readBytes 0x800 32
        = blockBytes 16 0x0388dace60b6a392f328c2b971b2fe78#128 ++ blockBytes 16 0xab6e47d42cec13bdf53a67b21257bddf#128
      ∧ t.outlen = 32 ∧ t.phase.ph = .done ∧ t.phase.tagOk = true := by decide +kernel
/-- Vector PD-4: the last plaintext byte 0x11 is malformed PKCS7 padding, PHASE 0x1084. -/
theorem test_mfinal_padding :
    let t := left (mfinal (table [(0x11, 0)]) 0 0x800 16
      (session .ready { Ctx.zero with mode := .ecb, dir := .decrypt, pad := .pkcs7 }))
    t.phase.word = 0x1084#32 ∧ t.outlen = 0 ∧ t.buf = [] := by decide +kernel
theorem test_mreset :
    (after (exec .mreset (session .data { Ctx.zero with mode := .cbc, V := 7 }))).ctx = Ctx.zero
      ∧ (after (exec .mreset (session .data { Ctx.zero with mode := .cbc, V := 7 }))).phase.word = 0#32 := by decide +kernel
/-- The example of 47_mode_ccm.md R153. -/
theorem test_ccm_b0 :
    ccmB0 8 23 8 (beBytes 13 0x00000003020100a0a1a2a3a4a5) = 0x5900000003020100a0a1a2a3a4a50017#128 := by decide +kernel
/-- The host pushes a command word through CMD_LO and CMD_HI (10_state.md R38), and reads a byte string back (20_memory.md R63). -/
theorem test_host_port :
    (hostWriteAt (hostWriteAt State.reset 0x28 0x00043530#32) 0x2C 0#32).queue = [0x43530#64]
      ∧ hostReadAt (masked true) (stored 0 [1#8, 2#8, 3#8, 4#8] State.reset) 0x10000 = 0x04030201#32 := by decide +kernel

/-! ## Witnesses: each meets the hypotheses of the statement it names, clause by clause at the ends of its ranges -/

/-- A whole 16-byte block of zeros. -/
def zeros16 : Bytes := List.replicate 16 0#8

/-- A collaborator every call of which fails. -/
def failing : Cipher := { wide := true, enc := fun _ => none, dec := fun _ => none }

/-- A GCM context whose tag of no data is the first bytes of `ej0`. -/
def gcmCtx (dir : Dir) (tagpl : TagPlace) (ej0 : Block) : Ctx :=
  { Ctx.zero with mode := .gcm, dir := dir, tagpl := tagpl, taglen := 4, EJ0 := ej0 }

/-- Run over nothing keeps the context and is ok. -/
theorem run_nil (C : Cipher) (c : Ctx) : run C c [] = { out := [], ctx := c, ok := true } := by simp [run, pieces]

theorem witness_StepRunsDecodedCommand :
    (queued 0x43530#64).queue = 0x43530#64 :: [0#64] ∧ (queued 0x43530#64).host = []
      ∧ { queued 0x43530#64 with host := [.engine] }.host = .engine :: []
      ∧ (queued 0xff#64).queue = 0xff#64 :: [0#64] ∧ State.reset.queue = [] ∧ State.reset.host = [] := by decide +kernel
theorem witness_StepRunsDecodedCommand_words :
    decode 0x43530#64 = .ok (.badd 5 3 4) ∧ decode 0xff#64 = .error .illegalOpcode
      ∧ decode 0x100#64 = .error .reservedField := ⟨rfl, rfl, rfl⟩
theorem witness_UnallocatedOpcodesFault :
    [0x02#64, 0x0F#64, 0x15#64, 0x1F#64, 0x26#64, 0x2F#64, 0x3B#64, 0x3F#64, 0x44#64, 0xFF#64].map decode
        = List.replicate 10 (.error .illegalOpcode) ∧ (queued 0x02#64).queue = 0x02#64 :: [0#64] ∧ (queued 0x02#64).host = [] := by
  decide +kernel
theorem witness_DecodeMatchesOpcodeTable : decode 0xFFFFFFFFFFFF0F20#64 = .ok (.bldi 15 0xFFFFFFFFFFFF) := rfl
theorem witness_DecodeMatchesOpcodeTable_reserved :
    decode 0x000000000003213a#64 = .error .reservedField ∧ bits 0x3A#64 7 0 = bits 0x000000000003213a#64 7 0 := ⟨rfl, rfl⟩
theorem witness_DecodeInvertsEncode :
    (Instr.bldi 15 0xFFFFFFFFFFFF).wellFormed = true ∧ (Instr.mproc 65535 65535 65535).wellFormed = true
      ∧ (Instr.wcsr 255 0xFFFFFFFF#32).wellFormed = true ∧ (Instr.bshr 15 15 0xFFFFFFFF).wellFormed = true := by decide
theorem witness_ResetSatisfiesInvariant : Memory.wf [(0, 1#8), (4095, 255#8)] := by decide
theorem witness_StepKeepsInvariant :
    let s := { State.reset with queue := [0x3d0120#64], ctx := { Ctx.zero with mode := .cbc }
                                phase := { PhaseReg.zero with ph := .ready, smode := .cbc } }
    Inv s ∧ step s = .next (after (step s)) := by
  refine ⟨⟨?_, ?_, ?_, ?_, ?_, ?_, ?_⟩, rfl⟩
  · unfold RegsBounded; decide +kernel
  · unfold QueueLegal; decide +kernel
  · unfold CsrsLegal; decide +kernel
  · unfold BufLegal; decide +kernel
  · unfold PhaseLegal; decide +kernel
  · decide +kernel
  · intro _; exact ⟨rfl, by decide⟩
theorem witness_ExecCompletesOrTakesOneFault : (queued 0#64).queue = 0#64 :: [0#64] := by decide +kernel
theorem witness_PreCheckFaultsChangeNothingElse :
    let s := queued 0x43530#64
    s.queue = 0x43530#64 :: [0#64] ∧ s.err = none ∧ exec (.badd 5 3 4) s = .next (after (exec (.badd 5 3 4) s))
      ∧ (after (exec (.badd 5 3 4) s)).err = some .regUninit ∧ isCompletionFault .regUninit = false := by
  and_intros <;> rfl
theorem witness_CompletionFaultsFailTheSession_cipher :
    let s := session .ready { Ctx.zero with mode := .ecb }
    mproc failing 0 0 16 s = .raise .cipherFail (left (mproc failing 0 0 16 s)) ∧ isCompletionFault .cipherFail = true := by
  decide +kernel
theorem witness_CompletionFaultsFailTheSession_padding :
    let s := session .ready { Ctx.zero with mode := .ecb, dir := .decrypt, pad := .pkcs7 }
    mfinal (table [(0x11, 0)]) 0 0 16 s = .raise .padding (left (mfinal (table [(0x11, 0)]) 0 0 16 s))
      ∧ isCompletionFault .padding = true := by decide +kernel
theorem witness_CompletionFaultsFailTheSession_auth :
    let s := session .ready (gcmCtx .decrypt .combined (2 ^ 127))
    mfinal failing 0 0 4 s = .raise .authFail (left (mfinal failing 0 0 4 s)) ∧ isCompletionFault .authFail = true := by
  decide +kernel
theorem witness_InvalidSourceRaisesRegUninit :
    (queued 0x43530#64).queue = 0x43530#64 :: [0#64] ∧ ∃ r ∈ sourceRegs (.badd 5 3 4), (queued 0x43530#64).lacks r :=
  ⟨rfl, 3, by decide, rfl⟩
theorem witness_PhaseForbidsCommand :
    (session .ready Ctx.zero).queue = 0#64 :: [0#64]
      ∧ (session .ready Ctx.zero).phase.ph = .ready ∧ (session .data Ctx.zero).phase.ph = .data
      ∧ (session .data { Ctx.zero with mode := .gcm }).phase.ph ≠ .ready
      ∧ { (session .ready Ctx.zero).phase with aadDone := true }.aadDone = true
      ∧ (session .ready Ctx.zero).ctx.mode ≠ .gcm ∧ (session .ready Ctx.zero).ctx.mode ≠ .ccm
      ∧ (session .ready Ctx.zero).ctx.mode ≠ .ocb
      ∧ (session .done Ctx.zero).phase.ph ≠ .ready ∧ (session .done Ctx.zero).phase.ph ≠ .data
      ∧ (session .data { Ctx.zero with mode := .ccm, calen := 1 }).ctx.mode = .ccm
      ∧ 0 < (session .data { Ctx.zero with mode := .ccm, calen := 1 }).ctx.calen
      ∧ (session .data { Ctx.zero with mode := .ccm, calen := 1 }).phase.aadDone = false := by decide +kernel
theorem witness_BauCommandFrame :
    isBau (.bcmp 1 2) = true ∧ isBau (.bdiv 1 2 3 4) = true
      ∧ exec (.bdiv 12 10 11 13) (bau 0#64 [(10, 9), (11, 7)])
        = .next (after (exec (.bdiv 12 10 11 13) (bau 0#64 [(10, 9), (11, 7)]))) := ⟨rfl, rfl, rfl⟩
theorem witness_OtherCommandsIgnoreBigRegisters :
    isBau (.wcsr 0 1) = false ∧ isBau .mreset = false
      ∧ exec (.wcsr 0 1) (queued 0#64) = .next (after (exec (.wcsr 0 1) (queued 0#64))) := ⟨rfl, rfl, rfl⟩
theorem witness_ModeContextIsHidden :
    isMoe (.bldi 1 2) = false ∧ exec (.bldi 1 2) (queued 0#64) = .next (after (exec (.bldi 1 2) (queued 0#64))) := ⟨rfl, rfl⟩
theorem witness_ModeEngineStoresOnlyItsOutput :
    (session .data Ctx.zero).buf.wf ∧ isMoe .mreset = true
      ∧ exec .mreset (session .data Ctx.zero) = .next (after (exec .mreset (session .data Ctx.zero)))
      ∧ exec (.minit 0 0) (session .data Ctx.zero) = .next (after (exec (.minit 0 0) (session .data Ctx.zero)))
      ∧ exec (.maad 0 0) (session .ready (gcmCtx .encrypt .detached 0))
        = .next (after (exec (.maad 0 0) (session .ready (gcmCtx .encrypt .detached 0))))
      ∧ (gcmCtx .encrypt .detached 0).mode.isAuth = true := by
  and_intros <;> first | rfl | decide +kernel
theorem witness_ModeEngineStoresOnlyItsOutput_final :
    exec (.mfinal 0 16 0) (session .ready (gcmCtx .encrypt .detached (2 ^ 127)))
        = .next (after (exec (.mfinal 0 16 0) (session .ready (gcmCtx .encrypt .detached (2 ^ 127)))))
      ∧ exec (.mproc 0 16 0) (session .ready Ctx.zero) = .next (after (exec (.mproc 0 16 0) (session .ready Ctx.zero))) := by
  constructor
  · rcases finish_cases (mfinal Config.cipher 0 16 0 (session .ready (gcmCtx .encrypt .detached (2 ^ 127)))) with
      ⟨t, _, h⟩ | ⟨c, t, _, h⟩ <;> exact h.trans (congrArg Host.Outcome.next (congrArg after h).symm)
  · rcases finish_cases (mproc Config.cipher 0 16 0 (session .ready Ctx.zero)) with
      ⟨t, _, h⟩ | ⟨c, t, _, h⟩ <;> exact h.trans (congrArg Host.Outcome.next (congrArg after h).symm)
theorem witness_NopIsOnlyCounted :
    (queued 0#64).queue = 0#64 :: [0#64] ∧ bits 0#64 7 0 = 0 ∧ bits 0x100#64 7 0 = 0 := by decide +kernel
theorem witness_WcsrWritesOneCsr :
    (queued 0x0000000000210001#64).queue = 0x0000000000210001#64 :: [0#64] ∧ (0x3FFF#32).toNat < 2 ^ 14
      ∧ (0xFFFF#32).toNat < 2 ^ 16 ∧ 3 < 4 ∧ 2 ^ 14 ≤ (0x4000#32).toNat ∧ 2 ^ 16 ≤ (0x10000#32).toNat
      ∧ bits 0x0000000000210001#64 7 0 = 1 := by decide +kernel
theorem witness_MovesAndWordAccess :
    let s := bau 0#64 [(1, 2 ^ 64 - 1), (2, 2 ^ 64), (3, 5)]
    s.queue = 0#64 :: [0#64] ∧ s.holds 1 (2 ^ 64 - 1) ∧ s.holds 2 (2 ^ 64) ∧ s.holds 3 5 ∧ 2 ^ 64 ≤ 2 ^ 64
      ∧ 5 - 5 / 2 ^ (64 * 63) % 2 ^ 64 * 2 ^ (64 * 63) + (2 ^ 64 - 1) * 2 ^ (64 * 63) < Config.CAPACITY
      ∧ Config.CAPACITY ≤ 5 - 5 / 2 ^ (64 * 64) % 2 ^ 64 * 2 ^ (64 * 64) + 1 * 2 ^ (64 * 64) := by
  unfold State.holds; decide +kernel
theorem witness_BldLoadsBigEndian :
    let s := stored 0 [1#8] (queued 0#64)
    s.queue = 0#64 :: [0#64] ∧ Config.BUF_BYTES < 4090 + 7 ∧ 4095 + 1 ≤ Config.BUF_BYTES
      ∧ (∀ k < 2, 0x100 / 256 ^ (2 - 1 - k) % 256 = (s.buf.read (0 + k)).toNat) ∧ 0x100 < 256 ^ 2 ∧ 0x100 < Config.CAPACITY
      ∧ (∀ k < 513, 256 ^ 512 / 256 ^ (513 - 1 - k) % 256 = (s.buf.read (0 + k)).toNat) ∧ 256 ^ 512 < 256 ^ 513
      ∧ Config.CAPACITY ≤ 256 ^ 512 := by decide +kernel
theorem witness_BstStoresBigEndian :
    let s := bau 0#64 [(1, 0x102)]
    s.queue = 0#64 :: [0#64] ∧ s.buf.wf ∧ s.holds 1 0x102 ∧ Config.BUF_BYTES < 4096 + 1 ∧ 4094 + 2 ≤ Config.BUF_BYTES
      ∧ 256 ^ 1 ≤ 0x102 ∧ 0x102 < 256 ^ 2 := by
  unfold State.holds; decide +kernel
theorem witness_AddSubtractMultiply :
    let s := bau 0#64 [(1, Config.CAPACITY - 1), (2, 1), (3, 2 ^ 64 - 1), (4, 2 ^ 64), (5, 0)]
    s.queue = 0#64 :: [0#64] ∧ s.holds 1 (Config.CAPACITY - 1) ∧ s.holds 2 1 ∧ s.holds 3 (2 ^ 64 - 1) ∧ s.holds 4 (2 ^ 64)
      ∧ s.holds 5 0 ∧ Config.CAPACITY - 1 + 0 < Config.CAPACITY ∧ Config.CAPACITY ≤ Config.CAPACITY - 1 + 1 ∧ 1 ≤ 1 ∧ 0 < 1
      ∧ (Config.CAPACITY - 1) * 1 < Config.CAPACITY ∧ Config.CAPACITY ≤ (Config.CAPACITY - 1) * (2 ^ 64 - 1) := by
  unfold State.holds; decide +kernel
theorem witness_BdivQuotientAndRemainder :
    let s := bau 0#64 [(1, 9), (2, 7), (3, 0)]
    s.queue = 0#64 :: [0#64] ∧ s.holds 1 9 ∧ s.holds 2 7 ∧ s.holds 3 0 ∧ 1 * 7 + 2 = 9 ∧ 2 < 7 := by
  unfold State.holds; decide +kernel
theorem witness_ShiftsAndLogic :
    let s := bau 0#64 [(1, 1), (2, 5)]
    s.queue = 0#64 :: [0#64] ∧ s.holds 1 1 ∧ s.holds 2 5 ∧ 1 * 2 ^ 4095 < Config.CAPACITY
      ∧ Config.CAPACITY ≤ 1 * 2 ^ 4096 := by
  unfold State.holds; decide +kernel
theorem witness_BcmpSetsOneFlag :
    let s := bau 0#64 [(1, 1), (2, 2)]
    s.queue = 0#64 :: [0#64] ∧ s.holds 1 1 ∧ s.holds 2 2 ∧ 1 < 2 ∧ 1 = 1 := by
  unfold State.holds; decide +kernel
theorem witness_PowerAndGreatestDivisor :
    let s := bau 0#64 [(1, 4), (2, 13), (3, 497), (4, 0)]
    s.queue = 0#64 :: [0#64] ∧ s.holds 1 4 ∧ s.holds 2 13 ∧ s.holds 3 497 ∧ s.holds 4 0 ∧ 497 ≠ 0 := by
  unfold State.holds; decide +kernel
theorem witness_BinvInverse :
    let s := bau 0#64 [(1, 3), (2, 1), (3, 2), (4, 6)]
    s.queue = 0#64 :: [0#64] ∧ s.holds 1 3 ∧ s.holds 2 1 ∧ s.holds 3 2 ∧ s.holds 4 6 ∧ 1 ≤ 1 ∧ 1 < 6 ∧ Nat.gcd 3 6 ≠ 1
      ∧ 1 < 2 ∧ Nat.gcd 3 2 = 1 := by
  unfold State.holds; decide +kernel
theorem witness_BsprpStrongTest :
    let s := bau 0#64 [(1, 3), (2, 2), (3, 1)]
    s.queue = 0#64 :: [0#64] ∧ s.holds 1 3 ∧ s.holds 2 2 ∧ s.holds 3 1 ∧ 2 ≤ 2 ∧ 1 ≤ 1 ∧ 2 < 3 ∧ 3 % 2 = 1 ∧ 1 < 2
      ∧ 3 - 1 = 1 * 2 ^ 1 ∧ 1 % 2 = 1 := by
  unfold State.holds; decide +kernel
theorem witness_ConfigurationLegality :
    (queued 0#64).queue = 0#64 :: [0#64] ∧ (queued 0#64).phase.ph ≠ .ready ∧ (queued 0#64).phase.ph ≠ .data := by
  decide +kernel
theorem witness_NonceLengthAndBoundsChecks :
    let s := { queued 0#64 with mcfg := 0x0407#32, ccmMlen := 65536#32 }
    s.phase.ph ≠ .ready ∧ s.phase.ph ≠ .data ∧ bits s.mcfg 3 0 = 7 ∧ 2 ^ (8 * (15 - 13)) ≤ s.ccmMlen.toNat
      ∧ ¬(2 ^ (8 * (15 - 12)) ≤ s.ccmMlen.toNat) ∧ Config.BUF_BYTES < 4085 + 12 := by decide +kernel
theorem witness_NonceLengthAndBoundsChecks_config : ¬ConfigIllegal (masked true).bs 0x0407#32 0 := by
  simp only [ConfigIllegal]; decide +kernel
theorem witness_NonceLengthAndBoundsChecks_nonce :
    NonceIllegal (masked true).bs 7 6 ∧ NonceIllegal (masked true).bs 7 14 := by
  simp only [NonceIllegal]; decide +kernel
theorem witness_NonceLengthAndBoundsChecks_legal :
    ¬NonceIllegal (masked true).bs 7 13 ∧ ¬NonceIllegal (masked true).bs 7 12 := by
  simp only [NonceIllegal]; decide +kernel
theorem witness_NonceLengthAndBoundsChecks_maad :
    let s := session .ready { Ctx.zero with mode := .ccm, calen := 2 }
    s.phase.ph = .ready ∧ s.phase.aadDone = false ∧ s.ctx.mode.isAuth = true ∧ (s.ctx.mode = .ccm ∧ 1 ≠ s.ctx.calen)
      ∧ ¬(s.ctx.mode = .ccm ∧ 2 ≠ s.ctx.calen) ∧ Config.BUF_BYTES < 4095 + 2 := by decide +kernel
theorem witness_NonceLengthAndBoundsChecks_mproc :
    let s := session .data { Ctx.zero with mode := .ccm, cmlen := 16 }
    s.phase.ph = .data ∧ s.ctx.calen = 0 ∧ MprocLengthIllegal (masked true) s 15 ∧ MprocLengthIllegal (masked true) s 32
      ∧ ¬MprocLengthIllegal (masked true) s 16 ∧ Config.BUF_BYTES < 4081 + 16 := by
  unfold MprocLengthIllegal; decide +kernel
theorem witness_NonceLengthAndBoundsChecks_mfinal_plain :
    let s := session .ready { Ctx.zero with mode := .cbc }
    let t := session .ready { Ctx.zero with mode := .cbc, dir := .decrypt, pad := .pkcs7 }
    MfinalLengthIllegal (masked true) s 15 ∧ MfinalLengthIllegal (masked true) t 17 ∧ MfinalLengthIllegal (masked true) t 0
      ∧ ¬MfinalLengthIllegal (masked true) s 16 ∧ s.phase.ph = .ready ∧ s.ctx.mode ≠ .ccm := by
  and_intros <;> (try unfold MfinalLengthIllegal) <;> decide +kernel
theorem witness_NonceLengthAndBoundsChecks_mfinal_auth :
    let s := session .ready (gcmCtx .decrypt .combined 0)
    let t := session .ready { Ctx.zero with mode := .ccm, cmlen := 2 }
    MfinalLengthIllegal (masked true) s 3 ∧ MfinalLengthIllegal (masked true) t 1 ∧ ¬MfinalLengthIllegal (masked true) t 2
      ∧ ¬MfinalLengthIllegal (masked true) s 4 ∧ s.phase.ph = .ready ∧ s.ctx.mode ≠ .ccm ∧ t.ctx.calen = 0 := by
  and_intros <;> (try unfold MfinalLengthIllegal) <;> decide +kernel
theorem witness_NonceLengthAndBoundsChecks_mfinal_bounds :
    let s := session .ready { Ctx.zero with mode := .cbc, pad := .pkcs7 }
    let t := { session .ready (gcmCtx .encrypt .detached 0) with tagaddr := 4093#32 }
    MfinalBoundsIllegal (masked true) s 4081 0 16 ∧ MfinalBoundsIllegal (masked true) s 0 4080 16
      ∧ MfinalBoundsIllegal (masked true) t 0 0 0
      ∧ MfinalBoundsIllegal (masked true) (session .ready (gcmCtx .encrypt .combined 0)) 0 4093 0 := by
  unfold MfinalBoundsIllegal; decide +kernel
theorem witness_MinitStartsUnauthenticatedSession :
    let s := { queued 0#64 with mcfg := 0x21#32 }
    s.queue = 0#64 :: [0#64] ∧ s.phase.ph ≠ .ready ∧ s.phase.ph ≠ .data ∧ Mode.cbc.isAuth = false
      ∧ bits s.mcfg 3 0 = Mode.cbc.code ∧ bits s.mcfg 6 5 = 1 ∧ Mode.cbc.isBlock = true ∧ bits s.mcfg 7 7 ≠ 1
      ∧ bits s.mcfg 13 8 = 0 := by decide +kernel
theorem witness_MinitStartsUnauthenticatedSession_bounds : 0 + Config.cipher.bs ≤ Config.BUF_BYTES := by
  cases h : Config.cipher.wide <;> simp [Cipher.bs, h, Config.BUF_BYTES]
theorem witness_MinitStartsAuthenticatedSession :
    let s := { queued 0#64 with mcfg := 0x1006#32 }
    let t := { queued 0#64 with mcfg := 0x0807#32, ccmMlen := 65535#32 }
    let u := { queued 0#64 with mcfg := 0x1008#32 }
    s.phase.ph ≠ .ready ∧ s.phase.ph ≠ .data
      ∧ sessionConfig (masked true) s.mcfg s.ccmAlen.toNat = some { Ctx.zero with mode := .gcm, taglen := 16 }
      ∧ sessionConfig (masked true) t.mcfg t.ccmAlen.toNat = some { Ctx.zero with mode := .ccm, taglen := 8 }
      ∧ sessionConfig (masked true) u.mcfg u.ccmAlen.toNat = some { Ctx.zero with mode := .ocb, taglen := 16 }
      ∧ nonceLegal (masked true) .gcm 12 = true ∧ nonceLegal (masked true) .ccm 13 = true
      ∧ nonceLegal (masked true) .ocb 15 = true ∧ t.ccmMlen.toNat < 2 ^ (8 * (15 - 13)) ∧ 4084 + 12 ≤ Config.BUF_BYTES
      ∧ (masked true).E 0 = some 0xA5 := by decide +kernel
theorem witness_MinitStartsAuthenticatedSession_nonces :
    nonceLegal (masked true) .gcm 1 = true ∧ nonceLegal (masked true) .gcm 4096 = true ∧ 0 + 4096 ≤ Config.BUF_BYTES
      ∧ nonceLegal (masked true) .ccm 7 = true ∧ nonceLegal (masked true) .ocb 1 = true := by decide +kernel
theorem witness_MaadAbsorbs :
    let s := session .ready { Ctx.zero with mode := .ccm }
    let t := session .ready { Ctx.zero with mode := .ccm, calen := 2 }
    s.queue = 0#64 :: [0#64] ∧ s.phase.ph = .ready ∧ s.phase.aadDone = false ∧ 4096 + 0 ≤ Config.BUF_BYTES
      ∧ (session .ready (gcmCtx .encrypt .combined 0)).ctx.mode = .gcm ∧ s.ctx.mode = .ccm ∧ s.ctx.calen = 0
      ∧ (session .ready { Ctx.zero with mode := .ocb }).ctx.mode = .ocb ∧ t.ctx.mode = .ccm ∧ 2 = t.ctx.calen
      ∧ 1 ≠ t.ctx.calen
      ∧ cbcMac (masked true) t.ctx.Y (paddedBlocks (ccmAadPrefix 2 ++ t.buf.readBytes 0 2)) = some (2 ^ 113 ^^^ 0xA5)
      ∧ ocbHash (masked true) 0 0 [] = some 0 := by decide +kernel
theorem witness_MaadAbsorbs_chains :
    let y : Nat → Block := fun k => if k % 2 = 0 then 0 else 0xA5
    (∀ k < 2, (masked true).E (y k ^^^ 0) = some (y (k + 1))) ∧ zeros16.length = 16
      ∧ (∀ k < 2, (0 : Block) = 0 ^^^ ocbL 0 (ntz (k + 1)) ∧ (masked true).E (0 ^^^ 0) = some 0xA5
          ∧ y (k + 1) = y k ^^^ 0xA5)
      ∧ (masked true).E (ocbPad1 [1#8] ^^^ (0 ^^^ 0)) = some (ocbPad1 [1#8] ^^^ 0xA5) := by decide +kernel
theorem witness_MprocWritesItsOutput :
    let s := session .ready { Ctx.zero with mode := .ctr }
    s.queue = 0#64 :: [0#64] ∧ MprocAccepted Config.cipher s 4096 4096 0
      ∧ (run Config.cipher s.ctx (s.buf.readBytes 4096 0)).ok = true := by
  refine ⟨rfl, ⟨.inl rfl, nofun, Nat.zero_mod _, nofun, by decide, by decide⟩, ?_⟩
  rw [show (session .ready { Ctx.zero with mode := .ctr }).buf.readBytes 4096 0 = [] from rfl, run_nil]
theorem witness_CollaboratorFailure_init :
    let s := { queued 0#64 with mcfg := 0x1006#32 }
    let c := { Ctx.zero with mode := .gcm, taglen := 16 }
    s.phase.running = false ∧ sessionConfig failing s.mcfg s.ccmAlen.toNat = some c ∧ nonceLegal failing c.mode 12 = true
      ∧ 0 + 12 ≤ Config.BUF_BYTES ∧ modeInit failing c (s.buf.readBytes 0 12) s.ccmAlen.toNat s.ccmMlen.toNat = none := by
  decide +kernel
theorem witness_CollaboratorFailure_aad :
    let s := session .ready { Ctx.zero with mode := .ocb }
    firstFault (maadChecks 0 16 s) = none ∧ modeAad failing s.ctx (s.buf.readBytes 0 16) = none := by decide +kernel
theorem witness_CollaboratorFailure_mproc :
    let s := session .ready { Ctx.zero with mode := .ecb }
    MprocAccepted failing s 0 4080 16 ∧ (run failing s.ctx (s.buf.readBytes 0 16)).ok = false := by
  unfold MprocAccepted; decide +kernel
theorem witness_CollaboratorFailure_mfinal_plain :
    let s := session .ready { Ctx.zero with mode := .ecb, pad := .pkcs7 }
    let t := session .ready { Ctx.zero with mode := .ctr, dir := .decrypt }
    s.ctx.mode.isAuth = false ∧ MfinalPlainAccepted failing s 0 4064 16
      ∧ (run failing s.ctx (padAdd failing.bs s.ctx.pad (s.buf.readBytes 0 16))).ok = false
      ∧ t.ctx.mode.isAuth = false ∧ MfinalPlainAccepted failing t 0 4095 1
      ∧ (run failing t.ctx (t.buf.readBytes 0 1)).ok = false := by
  and_intros <;> decide +kernel
theorem witness_CollaboratorFailure_mfinal :
    let s := session .ready (gcmCtx .encrypt .combined 0)
    let t := session .ready (gcmCtx .decrypt .detached 0)
    s.ctx.mode.isAuth = true ∧ s.ctx.dir = .encrypt ∧ MfinalTagAccepted s 0 4076 16
      ∧ (run failing s.ctx (s.buf.readBytes 0 16)).ok = false ∧ t.ctx.mode.isAuth = true ∧ t.ctx.dir = .decrypt
      ∧ MfinalVerifyAccepted t 0 4080 16 16 ∧ (run failing t.ctx (t.buf.readBytes 0 16)).ok = false := by
  unfold MfinalTagAccepted MfinalVerifyAccepted; decide +kernel
theorem witness_MfinalEndsPlainSession :
    let s := session .data { Ctx.zero with mode := .cbc }
    s.queue = 0#64 :: [0#64] ∧ s.ctx.mode.isAuth = false ∧ MfinalPlainAccepted Config.cipher s 4096 4096 0
      ∧ ¬(s.ctx.mode.isBlock = true ∧ s.ctx.dir = .decrypt ∧ s.ctx.pad ≠ .none)
      ∧ padAdd Config.cipher.bs s.ctx.pad (s.buf.readBytes 4096 0) = []
      ∧ (run Config.cipher s.ctx []).ok = true := by
  refine ⟨rfl, rfl, ⟨.inr rfl, fun _ _ _ => Nat.zero_mod _, nofun, nofun, by decide, by decide⟩, by decide, rfl, ?_⟩
  rw [run_nil]
theorem witness_MfinalRemovesPadding :
    let s := session .ready { Ctx.zero with mode := .ecb, dir := .decrypt, pad := .pkcs7 }
    s.ctx.mode.isBlock = true ∧ s.ctx.dir = .decrypt ∧ s.ctx.pad ≠ .none ∧ MfinalPlainAccepted (table [(0x11, 0)]) s 0 4080 16
      ∧ (run (table [(0x11, 0)]) s.ctx (s.buf.readBytes 0 16)).ok = true
      ∧ padRemove 16 .pkcs7 (run (table [(0x11, 0)]) s.ctx (s.buf.readBytes 0 16)).out = none
      ∧ padRemove 16 .pkcs7 (run (table [(0x10, 0)]) s.ctx (s.buf.readBytes 0 16)).out = some [] := by
  unfold MfinalPlainAccepted; decide +kernel
theorem witness_MfinalAppendsTag :
    let s := session .ready (gcmCtx .encrypt .combined 0)
    let t := session .ready (gcmCtx .encrypt .detached 0)
    s.queue = 0#64 :: [0#64] ∧ s.ctx.mode.isAuth = true ∧ s.ctx.dir = .encrypt ∧ MfinalTagAccepted s 0 4092 0
      ∧ s.ctx.tagpl = .combined ∧ t.queue = 0#64 :: [0#64] ∧ t.ctx.dir = .encrypt ∧ MfinalTagAccepted t 0 4096 0
      ∧ t.ctx.tagpl = .detached ∧ gcmTag { s.ctx with processed := s.ctx.processed + 0 } = [0#8, 0#8, 0#8, 0#8] := by
  unfold MfinalTagAccepted; decide +kernel
theorem witness_MfinalAppendsTag_values :
    (gcmCtx .encrypt .combined 0).mode = .gcm ∧ { Ctx.zero with mode := .ccm, taglen := 4 }.mode = .ccm
      ∧ (masked true).E (Ctx.zero.Chk ^^^ Ctx.zero.Off ^^^ Ctx.zero.Ldollar) = some 0xA5 := by decide +kernel
theorem witness_MfinalVerifiesTag :
    let s := session .ready (gcmCtx .decrypt .combined 0)
    let t := session .ready (gcmCtx .decrypt .detached (2 ^ 127))
    s.queue = 0#64 :: [0#64] ∧ s.ctx.mode.isAuth = true ∧ s.ctx.dir = .decrypt ∧ s.ctx.taglen ≤ 16
      ∧ MfinalVerifyAccepted s 4092 0 4 0 ∧ gcmTag s.ctx = s.buf.readBytes (receivedTagAddr s 4092 0) s.ctx.taglen
      ∧ t.queue = 0#64 :: [0#64] ∧ t.ctx.dir = .decrypt ∧ t.ctx.taglen ≤ 16 ∧ MfinalVerifyAccepted t 4096 0 0 0
      ∧ gcmTag t.ctx ≠ t.buf.readBytes (receivedTagAddr t 4096 0) t.ctx.taglen := by
  unfold MfinalVerifyAccepted; decide +kernel
theorem witness_MfinalTags_run (c : Ctx) (h : c.mode = .gcm) :
    (run Config.cipher c []).ok = true ∧ modeTag Config.cipher c = some (gcmTag c) := by
  rw [run_nil]; exact ⟨rfl, by simp [modeTag, h]⟩
theorem witness_MfinalReleasesOnlyVerifiedPlaintext :
    let s := session .ready (gcmCtx .decrypt .combined 0)
    s.ctx.mode.isAuth = true ∧ s.ctx.dir = .decrypt
      ∧ exec (.mfinal 4095 0 4) s = .next (after (exec (.mfinal 4095 0 4) s)) := ⟨rfl, rfl, rfl⟩
theorem witness_MresetAbandonsSession :
    (session .failed Ctx.zero).queue = 0#64 :: [0#64] ∧ bits 0x14#64 7 0 = 0x14 ∧ bits 0x114#64 7 0 = 0x14 := by
  decide +kernel
theorem witness_RunTakesSegmentsInOrder :
    zeros16.length = segmentSize failing Ctx.zero ∧ modeStep failing Ctx.zero zeros16 = none
      ∧ modeStep (masked true) Ctx.zero zeros16 = some (blockBytes 16 0xA5, Ctx.zero)
      ∧ [0#8].length = segmentSize failing { Ctx.zero with mode := .cfb, seg := .byte } := by decide +kernel
theorem witness_RunTakesSegmentsInOrder_tail :
    0 < [0#8].length ∧ (zeros16.take 15).length < segmentSize failing { Ctx.zero with mode := .ofb }
      ∧ modeTail failing { Ctx.zero with mode := .ofb } [0#8] = none
      ∧ modeTail (masked true) { Ctx.zero with mode := .ofb } [1#8] = some ([1#8], { Ctx.zero with mode := .ofb, V := 0xA5 }) := by
  decide +kernel
theorem witness_RunIsIndependentOfTheSplit :
    zeros16.length % segmentSize (masked true) Ctx.zero = 0 ∧ zeros16.length % segmentSize (masked false) Ctx.zero = 0 := by
  decide +kernel
theorem witness_RunIsIndependentOfTheSplit_session :
    let s := session .ready (gcmCtx .encrypt .combined 0)
    let s₁ := left (mproc (masked true) 0 4060 16 s)
    s.buf.wf ∧ mproc (masked true) 0 4060 16 s = .ok s₁ ∧ 0 + 16 + 16 ≤ 4060
      ∧ mproc (masked true) 16 4076 16 s₁ = .ok (left (mproc (masked true) 16 4076 16 s₁))
      ∧ mfinal (masked true) 16 4076 16 s₁ = .ok (left (mfinal (masked true) 16 4076 16 s₁)) := by decide +kernel
theorem witness_RunIsIndependentOfTheSplit_auth :
    let s := { session .ready (gcmCtx .decrypt .detached 1) with tagaddr := 32#32 }
    let s₁ := left (mproc (masked true) 0 16 16 s)
    s.buf.wf ∧ mproc (masked true) 0 16 16 s = .ok s₁ ∧ 16 + 16 ≤ s.tagaddr.toNat ∧ s.ctx.mode.isAuth = true
      ∧ mfinal (masked true) 16 32 0 s₁ = .ok (left (mfinal (masked true) 16 32 0 s₁)) := by decide +kernel
theorem witness_RunIsIndependentOfTheSplit_faults :
    let s := session .ready (gcmCtx .decrypt .combined (2 ^ 127))
    let s₁ := left (mproc (masked true) 0 64 16 s)
    let t := session .ready { Ctx.zero with mode := .ecb, dir := .decrypt, pad := .pkcs7 }
    let t₁ := left (mproc (masked true) 0 64 16 t)
    mproc (masked true) 0 64 16 s = .ok s₁
      ∧ mfinal (masked true) 16 80 4 s₁ = .raise .authFail (left (mfinal (masked true) 16 80 4 s₁))
      ∧ mproc (masked true) 0 64 16 t = .ok t₁
      ∧ mfinal (masked true) 16 80 16 t₁ = .raise .padding (left (mfinal (masked true) 16 80 16 t₁)) := by decide +kernel
/-- The premise on the block values of the two BlockByBlock statements, for two blocks of zeros. -/
theorem witness_BasicModesEncryptBlockByBlock :
    let e : Nat → Block := fun k => if k % 2 = 0 then 0xA5 else 0
    let v : Nat → Block := fun k => if k % 2 = 0 then 0 else 0xA5
    Ctx.zero.dir = .encrypt ∧ Ctx.zero.seg = .block ∧ (masked true).cut 0 = 0 ∧ (masked true).E 0 = some 0xA5 ∧ v 0 = Ctx.zero.V
      ∧ (∀ k < 2, (masked true).E (0 ^^^ v k) = some (e k) ∧ v (k + 1) = e k)
      ∧ (∀ k < 2, (masked true).E (0 ^^^ v k) = some (e k) ∧ v (k + 1) = 0 ^^^ e k)
      ∧ (∀ k < 2, (masked true).E (v k) = some (e k) ∧ v (k + 1) = 0 ^^^ e k)
      ∧ (∀ k < 2, (masked true).E (v k) = some (e k) ∧ v (k + 1) = e k)
      ∧ (∀ k < 2, (masked true).E (BitVec.ofNat 128 k) = some (BitVec.ofNat 128 k ^^^ 0xA5)
          ∧ BitVec.ofNat 128 (k + 1) = ctrNext (masked true) (BitVec.ofNat 128 k)) := by decide +kernel
theorem witness_BasicModesEncryptBlockByBlock_bytes :
    let v : Nat → Block := fun k => if k = 0 then 0 else if k = 1 then 1 else 0x101
    (∀ k < 2, (masked true).E (v k) = some (v k ^^^ 0xA5)
        ∧ 1#8 = 1#8 ^^^ BitVec.ofNat 8 ((v k ^^^ 0xA5).toNat / 256 ^ ((masked true).bs - 1))
        ∧ v (k + 1) = (masked true).cut ((v k <<< 8) ||| (1#8).zeroExtend 128))
      ∧ { Ctx.zero with mode := .cfb, seg := .byte }.mode = .cfb ∧ v 0 = Ctx.zero.V := by decide +kernel
theorem witness_BasicModesEncryptBlockByBlock_tails :
    0 < [0#8].length ∧ (zeros16.take 15).length < (masked true).bs ∧ (zeros16.take 7).length < (masked false).bs
      ∧ (masked true).E Ctx.zero.V = some 0xA5 ∧ (masked false).E Ctx.zero.CTR = some 0xA5
      ∧ { Ctx.zero with mode := .cfb }.seg = .block := by decide +kernel
theorem witness_AuthenticatedModesEncryptBlockByBlock :
    let a := fun k => ccmA 2 (List.replicate 13 0#8) k
    let x : Nat → Block := fun k => if k % 2 = 0 then 0 else 0xA5
    (masked true).wide = true
      ∧ (∀ k < 2, BitVec.ofNat 128 (k + 1) = inc32 (BitVec.ofNat 128 k)
          ∧ (masked true).E (BitVec.ofNat 128 (k + 1)) = some (BitVec.ofNat 128 (k + 1) ^^^ 0xA5)
          ∧ 0 = gcmMul (0 ^^^ (0 ^^^ (BitVec.ofNat 128 (k + 1) ^^^ 0xA5))) Ctx.zero.H)
      ∧ (∀ k < 2, (masked true).E (a (0 + k + 1)) = some (a (0 + k + 1) ^^^ 0xA5)
          ∧ (masked true).E (x k ^^^ 0) = some (x k ^^^ 0xA5) ∧ x (k + 1) = x k ^^^ 0xA5)
      ∧ (∀ k < 2, (0 : Block) = 0 ^^^ ocbL Ctx.zero.Ldollar (ntz (0 + k + 1)) ∧ (masked true).E (0 ^^^ 0) = some 0xA5
          ∧ (0 : Block) = 0 ^^^ 0) := by decide +kernel
theorem witness_AuthenticatedModesEncryptBlockByBlock_tails :
    let c := { Ctx.zero with mode := .ccm, q := 2, N := List.replicate 13 0#8 }
    (masked true).wide = true ∧ 0 < [1#8].length ∧ (zeros16.take 15).length < 16
      ∧ (masked true).E (inc32 Ctx.zero.CB) = some 0xA4 ∧ (masked true).E (Ctx.zero.Off ^^^ Ctx.zero.Lstar) = some 0xA5
      ∧ (masked true).E (ccmA c.q c.N (c.i + 1)) = some (ccmA 2 c.N 1 ^^^ 0xA5)
      ∧ (masked true).E (c.Y ^^^ BitVec.ofNat 128 (be [1#8] * 256 ^ (16 - 1))) = some (2 ^ 120 ^^^ 0xA5) := by decide +kernel
theorem witness_DecryptionInvertsEncryption :
    (∀ b, ∃ y, (masked true).E b = some y ∧ ((masked true).cut b = b → (masked true).D y = some b))
      ∧ (masked true).wide = true ∧ (masked true).cut Ctx.zero.V = Ctx.zero.V ∧ zeros16.length % (masked true).bs = 0 := by
  refine ⟨fun b => ⟨b ^^^ 0xA5#128, ?_, fun _ => ?_⟩, rfl, rfl, rfl⟩
  · simp [Cipher.E, Cipher.cut, masked]
  · simp [Cipher.D, Cipher.cut, masked]
theorem witness_PaddingIdempotence :
    zeros16.length = 16 ∧ (zeros16.take 8).length = 8 ∧ (∃ b ∈ zeros16.getLast?, b.toNat = 0)
      ∧ (∃ b ∈ (List.replicate 8 1#8).getLast?, b.toNat = 1) ∧ (∃ b ∈ (List.replicate 8 8#8).getLast?, b.toNat = 8)
      ∧ (∃ b ∈ (List.replicate 8 9#8).getLast?, b.toNat = 9) := by
  refine ⟨rfl, rfl, ⟨0#8, rfl, rfl⟩, ⟨1#8, rfl, rfl⟩, ⟨8#8, rfl, rfl⟩, ⟨9#8, rfl, rfl⟩⟩
theorem witness_ZeroPaddingRoundTrip :
    zeros16.length % 16 = 0 ∧ (∀ b ∈ [0#8, 1#8].getLast?, b ≠ 0#8) ∧ (∀ b ∈ ([] : Bytes).getLast?, b ≠ 0#8)
      ∧ 16 ≤ zeros16.length := by decide
theorem witness_CountersWrapInTheirSuffix :
    (masked true).cut (BitVec.allOnes 128) = BitVec.allOnes 128
      ∧ (masked false).cut 0xFFFFFFFFFFFFFFFF#128 = 0xFFFFFFFFFFFFFFFF#128 := by decide +kernel
theorem witness_GhashMultiplicationIsBilinear : 126 < 127 ∧ zeros16.length = 16 ∧ 0 < [1#8].length ∧ [1#8].length < 16 := by
  decide
theorem witness_CcmBlocksAreFormatted :
    7 ≤ (List.replicate 13 0#8).length ∧ (List.replicate 7 0#8).length ≤ 13 ∧ 2 = 15 - (List.replicate 13 0#8).length
      ∧ 8 = 15 - (List.replicate 7 0#8).length ∧ 4 ∈ [4, 6, 8, 10, 12, 14, 16] ∧ 65535 < 2 ^ (8 * 2)
      ∧ 2 ^ 64 - 1 < 2 ^ (8 * 8) := by decide
theorem witness_StatusAndQueueCount : (List.replicate 16 0#64).length ≤ Config.CQ_DEPTH := by decide
theorem witness_CtrlAndSoftReset : bits 0xE#32 0 0 = 0 ∧ bits 0xF#32 0 0 = 1 := by decide
theorem witness_PushCommandWord :
    State.reset.err = none ∧ (List.replicate 15 0#64).length < Config.CQ_DEPTH
      ∧ Config.CQ_DEPTH ≤ (List.replicate 16 0#64).length ∧ { State.reset with err := some .length }.err ≠ none := by
  decide +kernel
theorem witness_BufWindowAndReservedOffsets :
    0 + 4 ≤ Config.BUF_BYTES ∧ 4092 + 4 ≤ Config.BUF_BYTES ∧ State.reset.buf.wf ∧ (0x30 ≤ 0x30 ∧ 0x3C < 0x40)
      ∧ (0x60 ≤ 0x60 ∧ 0xFFFC < 0x10000) ∧ 0x10000 + Config.BUF_BYTES ≤ 0x11000 := by decide +kernel
theorem witness_HostAccessIsOneEvent :
    { State.reset with host := [.read 0x11fff#17] }.host = .read 0x11fff#17 :: []
      ∧ { State.reset with host := [.write 0x10003#17 1#32] }.host = .write 0x10003#17 1#32 :: [] := by decide +kernel

end Sys2Proof.Tests
end

section
/-! The host port: what a register returns to a host read and does on a host write (10_state.md section 5). -/

namespace Sys2Proof.Proofs

open Sys2Proof.Machine

/-! ## Fields of a packed word -/

/-- Cutting a number to `n` bits loses nothing of a field that lies inside them. -/
theorem bits_ofNat {n hi lo : Nat} (x : Nat) (hhi : hi < n) (hlo : lo ≤ hi) :
    bits (BitVec.ofNat n x) hi lo = x / 2 ^ lo % 2 ^ (hi + 1 - lo) := by
  have hsplit : 2 ^ n = 2 ^ lo * 2 ^ (n - lo) := by rw [← Nat.pow_add]; congr 1; omega
  rw [bits, BitVec.toNat_ofNat, hsplit, Nat.mod_mul_right_div_self]
  exact Nat.mod_mod_of_dvd _ (Nat.pow_dvd_pow 2 (by omega))

theorem bs_le_16 (C : Cipher) : C.bs ≤ 16 := by
  unfold Cipher.bs
  split <;> omega

/-! ## The registers of the host port, by offset -/

section
variable (C : Cipher) (s : State) (v : Word32)

@[simp] theorem hostReadAt_id : hostReadAt C s 0x00 = Config.ID := rfl
@[simp] theorem hostReadAt_param : hostReadAt C s 0x04 = paramWord C := rfl
@[simp] theorem hostReadAt_param2 : hostReadAt C s 0x08 = param2Word := rfl
@[simp] theorem hostReadAt_cmdLo : hostReadAt C s 0x28 = 0 := rfl
@[simp] theorem hostReadAt_cmdHi : hostReadAt C s 0x2C = 0 := rfl

@[simp] theorem hostWriteAt_cmdLo : hostWriteAt s 0x28 v = { s with cmdlat := v } := rfl
@[simp] theorem hostWriteAt_cmdHi : hostWriteAt s 0x2C v = pushCommand (commandWord v s.cmdlat) s := rfl

end

/-- Below the BUF window only CTRL, STATUS, CMD_LO and CMD_HI take a write (10_state.md R29). -/
theorem hostWriteAt_of_not_writable {off : Nat} (s : State) (v : Word32) (hwindow : off < 0x10000)
    (hoff : off ∉ [0x0C, 0x10, 0x28, 0x2C]) : hostWriteAt s off v = s := by
  simp only [List.mem_cons, List.not_mem_nil, or_false, not_or] at hoff
  obtain ⟨hctrl, hstatus, hcmdLo, hcmdHi⟩ := hoff
  unfold hostWriteAt
  rw [if_neg (by omega)]
  split
  · exact absurd rfl hctrl
  · exact absurd rfl hstatus
  · exact absurd rfl hcmdLo
  · exact absurd rfl hcmdHi
  · rfl

/-! ## PARAM and PARAM2 -/

/-- The four byte fields of PARAM do not overlap, since BS is a byte (10_state.md R31). -/
theorem paramWord_fields (C : Cipher) :
    bits (paramWord C) 7 0 = C.bs ∧ bits (paramWord C) 15 8 = Config.BUF_LOG2
      ∧ bits (paramWord C) 23 16 = Config.W ∧ bits (paramWord C) 31 24 = Config.VERSION := by
  have hbs := bs_le_16 C
  unfold paramWord Config.BUF_LOG2 Config.W Config.VERSION
  refine ⟨?_, ?_, ?_, ?_⟩ <;> rw [bits_ofNat _ (by decide) (by decide)] <;> omega

/-- The two halves of PARAM2 (10_state.md R31). -/
theorem param2Word_fields :
    bits param2Word 15 0 = Config.MAXW ∧ bits param2Word 31 16 = Config.CQ_DEPTH := by decide

/-- The address width in PARAM is that of BUF. -/
theorem buf_log2_eq : Config.BUF_LOG2 = Nat.log2 Config.BUF_BYTES :=
  (Nat.log2_two_pow (n := 12)).symm

/-- Settles O54, from the fields of the constant words: none of the three offsets takes a write. -/
theorem hostConstants : Obligations.HostConstants := by
  unfold Obligations.HostConstants
  intro C s v
  obtain ⟨hbs, hlog, hw, hversion⟩ := paramWord_fields C
  obtain ⟨hmaxw, hdepth⟩ := param2Word_fields
  have hignored (off : Nat) (h : off ∈ [0x00, 0x04, 0x08]) : hostWriteAt s off v = s := by
    apply hostWriteAt_of_not_writable <;> revert off <;> decide
  rw [hostReadAt_id, hostReadAt_param, hostReadAt_param2]
  exact ⟨rfl, hbs, hlog.trans buf_log2_eq, hw, hversion, hmaxw, hdepth,
    hignored 0x00 (by decide), hignored 0x04 (by decide), hignored 0x08 (by decide)⟩

/-! ## The push of a command word -/

/-- A command word is the word written to CMD_HI above the latched one. -/
theorem commandWord_eq_append (v cmdlat : Word32) : commandWord v cmdlat = v ++ cmdlat := by
  have hv := v.isLt
  have hlat := cmdlat.isLt
  apply BitVec.eq_of_toNat_eq
  rw [commandWord, BitVec.toNat_ofNat, BitVec.toNat_append, ← Nat.shiftLeft_add_eq_or_of_lt hlat, Nat.shiftLeft_eq]
  omega

/-- With ERR = 0 and room in the queue, the word is appended at its tail (10_state.md R38). -/
theorem pushCommand_of_room {w : Word64} {s : State} (herr : s.err = none) (hroom : s.queue.length < Config.CQ_DEPTH) :
    pushCommand w s = { s with queue := s.queue ++ [w] } :=
  if_pos ⟨herr, hroom⟩

/-- With ERR = 1 or a full queue, the word is dropped and OVF is set (10_state.md R38). -/
theorem pushCommand_of_no_room {w : Word64} {s : State} (h : s.err ≠ none ∨ Config.CQ_DEPTH ≤ s.queue.length) :
    pushCommand w s = { s with ovf := true } := by
  refine if_neg fun ⟨herr, hroom⟩ => ?_
  cases h with
  | inl hfault => exact hfault herr
  | inr hfull => omega

/-- Settles O57, by the two cases of the push. -/
theorem pushCommandWord : Obligations.PushCommandWord := by
  unfold Obligations.PushCommandWord
  intro C s v
  rw [hostWriteAt_cmdHi, commandWord_eq_append]
  exact ⟨hostWriteAt_cmdLo s v, pushCommand_of_room, pushCommand_of_no_room, hostReadAt_cmdLo C s, hostReadAt_cmdHi C s⟩

end Sys2Proof.Proofs
end

section
/-! The BUF window of the host port, and the offsets that take no write (20_memory.md R62, R63). -/

namespace Sys2Proof.Proofs

open Sys2Proof.Machine Sys2Proof.Laws

/-! ## The four bytes of a word of the window -/

/-- A word read through the window holds the four bytes of BUF in its four byte fields, the lowest address in bits 7:0. -/
theorem windowRead_fields (m : Memory) (a : Nat) :
    bits (windowRead m a) 7 0 = (m.read a).toNat ∧ bits (windowRead m a) 15 8 = (m.read (a + 1)).toNat
      ∧ bits (windowRead m a) 23 16 = (m.read (a + 2)).toNat ∧ bits (windowRead m a) 31 24 = (m.read (a + 3)).toNat := by
  have h0 := (m.read a).isLt
  have h1 := (m.read (a + 1)).isLt
  have h2 := (m.read (a + 2)).isLt
  have h3 := (m.read (a + 3)).isLt
  unfold windowRead
  refine ⟨?_, ?_, ?_, ?_⟩ <;> rw [bits_ofNat _ (by decide) (by decide)] <;> omega

@[simp] theorem length_windowBytes (v : Word32) : (windowBytes v).length = 4 := rfl

theorem getElem_windowBytes (v : Word32) {k : Nat} (hk : k < (windowBytes v).length) :
    (windowBytes v)[k] = BitVec.ofNat 8 (bits v (8 * k + 7) (8 * k)) :=
  match k, hk with
  | 0, _ | 1, _ | 2, _ | 3, _ => rfl

/-- Byte `k` written through the window is the byte field `k` of the word. -/
theorem toNat_getElem_windowBytes (v : Word32) {k : Nat} (hk : k < (windowBytes v).length) :
    (windowBytes v)[k].toNat = bits v (8 * k + 7) (8 * k) := by
  have hwidth : 8 * k + 7 + 1 - 8 * k = 8 := by omega
  rw [getElem_windowBytes, BitVec.toNat_ofNat, bits, hwidth, Nat.mod_mod]

/-! ## Accesses inside the window -/

/-- A host read inside the window is a read of BUF. -/
theorem hostReadAt_window (C : Cipher) (s : State) {a : Nat} (ha : a < Config.BUF_BYTES) :
    hostReadAt C s (0x10000 + a) = windowRead s.buf a := by
  unfold hostReadAt
  rw [if_pos (by omega), if_pos (by omega), Nat.add_sub_cancel_left]

/-- A host write inside the window is a write of the word's four bytes to BUF. -/
theorem hostWriteAt_window (s : State) (v : Word32) {a : Nat} (ha : a < Config.BUF_BYTES) :
    hostWriteAt s (0x10000 + a) v = s.setBuf (s.buf.writeBytes a (windowBytes v)) := by
  unfold hostWriteAt
  rw [if_pos (by omega), if_pos (by omega), Nat.add_sub_cancel_left]

/-! ## Reserved and read-only offsets -/

/-- The reserved offsets: the two gaps of the register map and what lies above the window (20_memory.md R62, R63). -/
def ReservedOffset (off : Nat) : Prop :=
  (0x30 ≤ off ∧ off < 0x40) ∨ (0x60 ≤ off ∧ off < 0x10000) ∨ 0x10000 + Config.BUF_BYTES ≤ off

/-- No register stands at a reserved offset, so a read there returns 0. -/
theorem hostReadAt_of_reserved (C : Cipher) (s : State) {off : Nat} (h : ReservedOffset off) : hostReadAt C s off = 0 := by
  unfold ReservedOffset at h
  unfold hostReadAt
  by_cases hwindow : 0x10000 ≤ off
  · rw [if_pos hwindow, if_neg (by omega)]
  · rw [if_neg hwindow, if_neg (by omega)]
    split
    iterate 10 · omega
    · rfl

/-- A write to a reserved offset is ignored. -/
theorem hostWriteAt_of_reserved (s : State) (v : Word32) {off : Nat} (h : ReservedOffset off) :
    hostWriteAt s off v = s := by
  unfold ReservedOffset at h
  by_cases hwindow : 0x10000 ≤ off
  · unfold hostWriteAt
    rw [if_pos hwindow, if_neg (by omega)]
  · refine hostWriteAt_of_not_writable s v (by omega) ?_
    simp only [List.mem_cons, List.not_mem_nil, or_false]
    omega

/-- Settles O58: inside the window by the laws of BUF for a string written, elsewhere by the map of the registers. -/
theorem bufWindowAndReservedOffsets : Obligations.BufWindowAndReservedOffsets := by
  unfold Obligations.BufWindowAndReservedOffsets
  intro C s v a k x off
  refine ⟨fun ha => ?_, fun h => ⟨hostReadAt_of_reserved C s h, hostWriteAt_of_reserved s v h⟩, fun ro hro => ?_⟩
  · have hin : a < Config.BUF_BYTES := by omega
    rw [hostReadAt_window C s hin, hostWriteAt_window s v hin, setBuf_buf]
    obtain ⟨hbyte0, hbyte1, hbyte2, hbyte3⟩ := windowRead_fields s.buf a
    refine ⟨hbyte0, hbyte1, hbyte2, hbyte3, fun hwf => ⟨rfl, fun hk => ?_, fun hx => ?_⟩⟩
    · have hlength : k < (windowBytes v).length := by rwa [length_windowBytes]
      rw [read_writeBytes_same _ _ _ _ hwf ha hlength, toNat_getElem_windowBytes]
    · exact read_writeBytes_other _ _ _ _ hwf ha hx
  · apply hostWriteAt_of_not_writable <;> revert ro <;> decide

end Sys2Proof.Proofs
end

section
/-! The decoder (30_encoding.md R84, R85): which opcodes name a command, and the engine's step on a word that does not
decode. -/

namespace Sys2Proof.Proofs

open Sys2Proof.Machine Sys2Proof.Laws

/-! ## The reserved-field check -/

/-- The check of the reserved fields lets a command through only when they are 0. -/
theorem unlessReserved_eq_ok {reservedZero : Bool} {i j : Instr} :
    unlessReserved reservedZero i = .ok j ↔ reservedZero = true ∧ i = j := by
  cases reservedZero <;> simp [unlessReserved]

/-- The only fault of the check of the reserved fields is RESERVED_FIELD. -/
theorem unlessReserved_ne_illegalOpcode (reservedZero : Bool) (i : Instr) :
    unlessReserved reservedZero i ≠ .error .illegalOpcode := by
  cases reservedZero <;> simp [unlessReserved]

/-! ## Allocated and unallocated opcodes -/

/-- The opcodes that R84 lists as naming no command. -/
def UnallocatedOpcode (opcode : Nat) : Prop :=
  (0x02 ≤ opcode ∧ opcode ≤ 0x0F) ∨ (0x15 ≤ opcode ∧ opcode ≤ 0x1F) ∨ (0x26 ≤ opcode ∧ opcode ≤ 0x2F)
    ∨ (0x3B ≤ opcode ∧ opcode ≤ 0x3F) ∨ 0x44 ≤ opcode

/-- No command has an unallocated opcode. -/
theorem not_unallocatedOpcode_opcodeOf (i : Instr) : ¬UnallocatedOpcode (opcodeOf i) := by
  unfold UnallocatedOpcode
  cases i <;> simp [opcodeOf]

/-- What the decoder does with a word: it reads a command of the word's opcode, subject to the check of that command's
reserved fields, or the opcode is unallocated and it answers ILLEGAL_OPCODE (R85). -/
theorem decode_cases (w : Word64) :
    (∃ reservedZero i, decode w = unlessReserved reservedZero i ∧ opcodeOf i = bits w 7 0)
      ∨ (UnallocatedOpcode (bits w 7 0) ∧ decode w = .error .illegalOpcode) := by
  unfold decode
  split
  iterate 28 · next hopcode => exact .inl ⟨_, _, rfl, hopcode.symm⟩
  · refine .inr ⟨?_, rfl⟩
    unfold UnallocatedOpcode
    simp only [imp_false] at *
    omega

/-- ILLEGAL_OPCODE is decided by the opcode alone (60_exceptions.md R178). -/
theorem decode_eq_illegalOpcode_iff (w : Word64) :
    decode w = .error .illegalOpcode ↔ UnallocatedOpcode (bits w 7 0) := by
  obtain ⟨reservedZero, i, hdecode, hopcode⟩ | ⟨hunallocated, hdecode⟩ := decode_cases w
  · rw [hdecode, ← hopcode]
    exact iff_of_false (unlessReserved_ne_illegalOpcode _ _) (not_unallocatedOpcode_opcodeOf i)
  · exact iff_of_true hdecode hunallocated

/-- A decoded command has the opcode of its word. -/
theorem opcodeOf_of_decode {w : Word64} {i : Instr} (h : decode w = .ok i) : opcodeOf i = bits w 7 0 := by
  obtain ⟨reservedZero, j, hdecode, hopcode⟩ | ⟨-, hdecode⟩ := decode_cases w
  · rw [hdecode, unlessReserved_eq_ok] at h
    obtain ⟨-, rfl⟩ := h
    exact hopcode
  · rw [hdecode] at h
    nomatch h

/-! ## NOP -/

/-- A word whose opcode and format N field are 0 is the word 0 (30_encoding.md R75). -/
theorem eq_zero_of_bits {w : Word64} (hopcode : bits w 7 0 = 0) (hfield : bits w 63 8 = 0) : w = 0 := by
  have hlt := w.isLt
  simp only [bits] at hopcode hfield
  exact BitVec.eq_of_toNat_eq (show w.toNat = 0 by omega)

/-- No encoding but the word 0 is a NOP (R84). -/
theorem decode_eq_nop_iff (w : Word64) : decode w = .ok .nop ↔ w = 0 := by
  constructor
  · intro h
    have hopcode : bits w 7 0 = 0 := (opcodeOf_of_decode h).symm
    have hformat : decode w = decodeN w .nop := by simp only [decode, hopcode]
    rw [hformat, decodeN, unlessReserved_eq_ok, zeroField, beq_iff_eq] at h
    obtain ⟨hfield, -⟩ := h
    exact eq_zero_of_bits hopcode hfield
  · rintro rfl
    rfl

/-! ## The engine's step on a word that does not decode -/

/-- Taking a fault with `w` at the head of the queue records `w` in ERRCMD (60_exceptions.md R195). -/
theorem takeFault_eq_faulted {s : State} {w : Word64} {rest : List Word64} (c : FaultCode) (hqueue : s.queue = w :: rest) :
    s.takeFault c = s.faulted w c := by
  rw [State.takeFault, State.faulted, hqueue, List.headD_cons]

/-- A word that does not decode raises its decode fault, and nothing but the fault registers and the queue changes
(40_control.md R89). -/
theorem step_of_decode_error {s : State} {w : Word64} {rest : List Word64} {c : FaultCode} (hqueue : s.queue = w :: rest)
    (hhost : s.host = []) (hdecode : decode w = .error c) : step s = .next (s.faulted w c) := by
  have hfetch : fetch s = .bad c := by simp only [fetch, hqueue, hdecode]
  have hstep : step s = engineStep s := by simp only [step, hhost]
  rw [hstep, engineStep, hfetch]
  simp only [finish_raise, takeFault_eq_faulted c hqueue]

/-- Settles O2: which words are ILLEGAL_OPCODE and which are NOP by the decoder's cases, and the step by its decode fault. -/
theorem unallocatedOpcodesFault : Obligations.UnallocatedOpcodesFault := by
  unfold Obligations.UnallocatedOpcodesFault
  exact ⟨decode_eq_illegalOpcode_iff, decode_eq_nop_iff, fun _ _ _ => step_of_decode_error⟩

/-! ## The worked encodings -/

/-- Settles O5, by running the decoder on each of the six words of R88. -/
theorem workedEncodingsDecode : Obligations.WorkedEncodingsDecode := by
  unfold Obligations.WorkedEncodingsDecode
  exact ⟨rfl, rfl, rfl, rfl, rfl, rfl⟩

end Sys2Proof.Proofs
end

section
/-! The control commands NOP and WCSR, their effects and their words (40_control.md section 2). -/

namespace Sys2Proof.Proofs

open Sys2Proof.Machine Sys2Proof.Laws

/-! ## The end of a command that raised no fault -/

/-- Counting a command takes its word `w` from the head of the queue (40_control.md R90). -/
theorem commit_eq_completed {s : State} {w : Word64} {rest : List Word64} (hqueue : s.queue = w :: rest) :
    s.commit = s.completed rest := by
  rw [State.commit, State.completed, hqueue, List.tail_cons]

/-! ## Reserved fields -/

/-- The reserved-field check of one field, said in terms of the field. -/
theorem unlessReserved_zeroField (w : Word64) (hi lo : Nat) (i : Instr) :
    unlessReserved (zeroField w hi lo) i = if bits w hi lo = 0 then .ok i else .error .reservedField := by
  simp only [unlessReserved, zeroField, beq_iff_eq]

/-- The bits of a 32-bit word from `lo` upwards are 0 exactly when its value is below `2^lo`. -/
theorem bits_31_eq_zero_iff (v : Word32) {lo : Nat} (hlo : lo ≤ 32) : bits v 31 lo = 0 ↔ v.toNat < 2 ^ lo := by
  have hfits : v.toNat / 2 ^ lo < 2 ^ (32 - lo) := by
    apply Nat.div_lt_of_lt_mul
    rw [← Nat.pow_add, Nat.add_sub_cancel' hlo]
    exact v.isLt
  rw [bits, Nat.mod_eq_of_lt hfits, Nat.div_eq_zero_iff_lt (Nat.two_pow_pos lo)]

/-! ## NOP -/

theorem exec_nop {s : State} {w : Word64} {rest : List Word64} (hqueue : s.queue = w :: rest) :
    exec .nop s = .next (s.completed rest) :=
  congrArg Host.Outcome.next (commit_eq_completed hqueue)

/-- With opcode 0, the format's reserved field is 0 only in the word 0 (30_encoding.md R75). -/
theorem nop_field_eq_zero_iff {w : Word64} (hopcode : bits w 7 0 = 0) : bits w 63 8 = 0 ↔ w = 0 := by
  refine ⟨eq_zero_of_bits hopcode, ?_⟩
  rintro rfl
  rfl

theorem decode_of_opcode_nop {w : Word64} (hopcode : bits w 7 0 = 0) :
    decode w = if w = 0 then .ok .nop else .error .reservedField := by
  have hformat : decode w = decodeN w .nop := by simp only [decode, hopcode]
  rw [hformat, decodeN, unlessReserved_zeroField]
  simp only [nop_field_eq_zero_iff hopcode]

/-- Settles O18, from the effect of NOP and the decoding of opcode 0. -/
theorem nopIsOnlyCounted : Obligations.NopIsOnlyCounted := by
  unfold Obligations.NopIsOnlyCounted
  exact ⟨fun _ _ _ => exec_nop, fun _ => decode_of_opcode_nop⟩

/-! ## WCSR -/

/-- A value with a reserved bit: above bit 13 for MCFG, above bit 15 for TAGADDR (40_control.md R94). -/
def WcsrReserved (n : Nat) (v : Word32) : Prop := (n = 0 ∧ 2 ^ 14 ≤ v.toNat) ∨ (n = 1 ∧ 2 ^ 16 ≤ v.toNat)

theorem firstFault_wcsrChecks_of_number {n : Nat} (v : Word32) (hn : 3 < n) :
    firstFault (wcsrChecks n v) = some .illegalCsr := by
  rw [wcsrChecks, firstFault, if_pos (decide_eq_true hn)]

theorem firstFault_wcsrChecks_of_reserved {n : Nat} {v : Word32} (h : WcsrReserved n v) :
    firstFault (wcsrChecks n v) = some .reservedField := by
  obtain ⟨rfl, hv⟩ | ⟨rfl, hv⟩ := h
  · have hfield : bits v 31 14 ≠ 0 := by rw [Ne, bits_31_eq_zero_iff v (by decide)]; omega
    simp [wcsrChecks, firstFault, hfield]
  · have hfield : bits v 31 16 ≠ 0 := by rw [Ne, bits_31_eq_zero_iff v (by decide)]; omega
    simp [wcsrChecks, firstFault, hfield]

theorem firstFault_wcsrChecks_of_legal {n : Nat} {v : Word32} (hn : n ≤ 3) (h : ¬WcsrReserved n v) :
    firstFault (wcsrChecks n v) = none := by
  have hmcfg : n = 0 → bits v 31 14 = 0 := fun h0 =>
    (bits_31_eq_zero_iff v (by decide)).mpr (Nat.not_le.mp fun hv => h (.inl ⟨h0, hv⟩))
  have htagaddr : n = 1 → bits v 31 16 = 0 := fun h1 =>
    (bits_31_eq_zero_iff v (by decide)).mpr (Nat.not_le.mp fun hv => h (.inr ⟨h1, hv⟩))
  rw [firstFault_eq_none]
  simpa [wcsrChecks] using ⟨hn, hmcfg, htagaddr⟩

theorem exec_wcsr (n : Nat) (v : Word32) (s : State) : exec (.wcsr n v) s = execWcsr n v s := rfl

section
variable {s : State} {w : Word64} {rest : List Word64} {n : Nat} {v : Word32} (hqueue : s.queue = w :: rest)
include hqueue

/-- WCSR with a number and a value that R94 allows writes that CSR. -/
theorem exec_wcsr_of_legal (hn : n ≤ 3) (h : ¬WcsrReserved n v) :
    exec (.wcsr n v) s = .next ((s.writeCsr n v).completed rest) := by
  have hwritten : (s.writeCsr n v).queue = w :: rest := by rw [writeCsr_frame]; exact hqueue
  rw [exec_wcsr, execWcsr, firstFault_wcsrChecks_of_legal hn h]
  exact congrArg Host.Outcome.next (commit_eq_completed hwritten)

/-- WCSR takes the fault that its checks find, and writes nothing. -/
theorem exec_wcsr_of_fault {c : FaultCode} (h : firstFault (wcsrChecks n v) = some c) :
    exec (.wcsr n v) s = .next (s.faulted w c) := by
  rw [exec_wcsr, execWcsr, h]
  exact congrArg Host.Outcome.next (takeFault_eq_faulted c hqueue)

end

theorem decode_of_opcode_wcsr {w : Word64} (hopcode : bits w 7 0 = 1) :
    decode w = if bits w 63 48 = 0 then .ok (.wcsr (bits w 15 8) (BitVec.ofNat 32 (bits w 47 16)))
      else .error .reservedField := by
  rw [← unlessReserved_zeroField]
  simp only [decode, hopcode]

/-- Settles O19: the value's reserved bits and the CSR number decide between the write and the two faults. -/
theorem wcsrWritesOneCsr : Obligations.WcsrWritesOneCsr := by
  unfold Obligations.WcsrWritesOneCsr
  intro s w rest n v hqueue
  have hwrite {csr : Nat} (hcsr : csr ≤ 3) (h : ¬WcsrReserved csr v) := exec_wcsr_of_legal hqueue hcsr h
  have hreserved {csr : Nat} (h : WcsrReserved csr v) := exec_wcsr_of_fault hqueue (firstFault_wcsrChecks_of_reserved h)
  refine ⟨fun hv => hwrite (by omega) ?_, fun hv => hwrite (by omega) ?_, hwrite (by omega) ?_, hwrite (by omega) ?_,
    fun hn => exec_wcsr_of_fault hqueue (firstFault_wcsrChecks_of_number v hn),
    fun hv => hreserved (.inl ⟨rfl, hv⟩), fun hv => hreserved (.inr ⟨rfl, hv⟩), decode_of_opcode_wcsr⟩
  all_goals
    unfold WcsrReserved
    omega

end Sys2Proof.Proofs
end

section
/-! What MINIT makes of MCFG (44_mode_session.md R123), and MRESET (R133). -/

namespace Sys2Proof.Proofs

open Sys2Proof.Machine Sys2Proof.Laws

/-! ## The fields of MCFG -/

/-- MODE names a mode exactly when it holds that mode's code (10_state.md R40). -/
theorem mcfgMode_eq_some_iff (w : Word32) (m : Mode) : mcfgMode w = some m ↔ bits w 3 0 = m.code := by
  unfold mcfgMode
  split
  iterate 9 · next hcode => rw [hcode]; cases m <;> decide
  · refine iff_of_false nofun ?_
    cases m <;> assumption

/-- The codes above 8 name no mode. -/
theorem mcfgMode_eq_none_iff (w : Word32) : mcfgMode w = none ↔ 8 < bits w 3 0 := by
  unfold mcfgMode
  split
  iterate 9 · next hcode => simp [hcode]
  · refine iff_of_true rfl ?_
    simp only [imp_false] at *
    omega

/-- PAD is decoded unless it has the reserved value 3. -/
theorem mcfgPad_eq_none_iff (w : Word32) : mcfgPad w = none ↔ bits w 6 5 = 3 := by
  have hfield : bits w 6 5 < 4 := Nat.mod_lt _ (by decide)
  unfold mcfgPad
  split
  iterate 3 · next hcode => simp [hcode]
  · refine iff_of_true rfl ?_
    simp only [imp_false] at *
    omega

/-- A decoded PAD is NONE exactly when the field is 0. -/
theorem pad_eq_none_iff {w : Word32} {p : Pad} (h : mcfgPad w = some p) : p = .none ↔ bits w 6 5 = 0 := by
  unfold mcfgPad at h
  split at h
  case h_4 => nomatch h
  all_goals
    next hcode =>
    cases h
    simp [hcode]

/-- SEG is one bit, and 1 selects bytes. -/
theorem mcfgSeg_eq_byte_iff (w : Word32) : mcfgSeg w = .byte ↔ bits w 7 7 = 1 := by
  have hfield : bits w 7 7 < 2 := Nat.mod_lt _ (by decide)
  unfold mcfgSeg
  split
  · next hzero => simp [hzero]
  · next hnonzero => exact iff_of_true rfl (by omega)

/-- TAGPL = 0 places the tag behind the data. -/
theorem mcfgTagpl_eq_combined_iff (w : Word32) : mcfgTagpl w = .combined ↔ bits w 13 13 = 0 := by
  unfold mcfgTagpl
  split
  · next hzero => exact iff_of_true rfl hzero
  · next hnonzero => exact iff_of_false nofun hnonzero

/-! ## The mode of a configuration, by its code -/

section
variable {w : Word32} {m : Mode} (hmode : mcfgMode w = some m)
include hmode

theorem mode_eq_iff_bits (n : Mode) : m = n ↔ bits w 3 0 = n.code := by
  rw [← mcfgMode_eq_some_iff, hmode, Option.some.injEq]

theorem isBlock_iff_bits : m.isBlock = true ↔ bits w 3 0 = 0 ∨ bits w 3 0 = 1 ∨ bits w 3 0 = 2 := by
  rw [(mcfgMode_eq_some_iff w m).mp hmode]
  cases m <;> decide

theorem isAuth_iff_bits : m.isAuth = true ↔ bits w 3 0 = 6 ∨ bits w 3 0 = 7 ∨ bits w 3 0 = 8 := by
  rw [(mcfgMode_eq_some_iff w m).mp hmode]
  cases m <;> decide

end

/-! ## Configuration legality -/

/-- Items 2 to 8 of R123 on a context that holds the copies of MCFG. -/
theorem configLegal_eq_false_iff (C : Cipher) (c : Ctx) (ccmAlen : Nat) :
    configLegal C c ccmAlen = false ↔
      (c.pad ≠ .none ∧ ¬c.mode.isBlock = true)
        ∨ (c.seg = .byte ∧ c.mode ≠ .cfb)
        ∨ (c.mode.isAuth = true ∧ C.bs ≠ 16)
        ∨ ((c.mode = .gcm ∨ c.mode = .ocb) ∧ c.taglen ∉ [4, 8, 12, 13, 14, 15, 16])
        ∨ (c.mode = .ccm ∧ c.taglen ∉ [4, 6, 8, 10, 12, 14, 16])
        ∨ (c.mode = .ccm ∧ 65535 < ccmAlen)
        ∨ (¬c.mode.isAuth = true ∧ (c.taglen ≠ 0 ∨ c.tagpl ≠ .combined)) := by
  simp only [configLegal, Bool.and_eq_false_iff, Bool.not_eq_false', Bool.and_eq_true, Bool.or_eq_true, bne_iff_ne,
    beq_iff_eq, decide_eq_true_eq, Bool.not_eq_true', decide_eq_false_iff_not, Bool.not_eq_true, or_assoc]

/-- The configuration is refused exactly when one of the eight conditions of R123 holds. -/
theorem sessionConfig_eq_none_iff (C : Cipher) (mcfg : Word32) (ccmAlen : Nat) :
    sessionConfig C mcfg ccmAlen = none ↔ ConfigIllegal C.bs mcfg ccmAlen := by
  cases hmode : mcfgMode mcfg with
  | none =>
    have hcode := (mcfgMode_eq_none_iff mcfg).mp hmode
    exact iff_of_true (by simp only [sessionConfig, hmode]) (.inl (.inl hcode))
  | some m =>
    cases hpad : mcfgPad mcfg with
    | none =>
      have hreserved := (mcfgPad_eq_none_iff mcfg).mp hpad
      exact iff_of_true (by simp only [sessionConfig, hmode, hpad]) (.inl (.inr hreserved))
    | some p =>
      have hmodeLegal : ¬8 < bits mcfg 3 0 := by rw [← mcfgMode_eq_none_iff, hmode]; nofun
      have hpadLegal : bits mcfg 6 5 ≠ 3 := by rw [Ne, ← mcfgPad_eq_none_iff, hpad]; nofun
      have hcfb : m = .cfb ↔ bits mcfg 3 0 = 3 := mode_eq_iff_bits hmode .cfb
      have hgcm : m = .gcm ↔ bits mcfg 3 0 = 6 := mode_eq_iff_bits hmode .gcm
      have hccm : m = .ccm ↔ bits mcfg 3 0 = 7 := mode_eq_iff_bits hmode .ccm
      have hocb : m = .ocb ↔ bits mcfg 3 0 = 8 := mode_eq_iff_bits hmode .ocb
      simp only [sessionConfig, hmode, hpad, ite_eq_right_iff, reduceCtorEq, imp_false, Bool.not_eq_true]
      rw [configLegal_eq_false_iff]
      simp only [ConfigIllegal, mcfgTaglen, Ne, isBlock_iff_bits hmode, isAuth_iff_bits hmode, hcfb, hgcm, hccm, hocb,
        pad_eq_none_iff hpad, mcfgSeg_eq_byte_iff, mcfgTagpl_eq_combined_iff, hmodeLegal, hpadLegal, or_self, false_or]

/-! ## MINIT outside a running session -/

theorem running_eq_false {p : PhaseReg} (hready : p.ph ≠ .ready) (hdata : p.ph ≠ .data) : p.running = false := by
  simp [PhaseReg.running, hready, hdata]

section
variable {C : Cipher} {s : State} {a l : Nat} (hidle : s.phase.running = false)
include hidle

theorem minit_of_config_refused (h : sessionConfig C s.mcfg s.ccmAlen.toNat = none) :
    minit C a l s = .raise .badConfig s := by
  simp [minit, hidle, h]

/-- A configuration that is accepted leads to another fault or to a session, and MINIT itself counts no command. -/
theorem minit_of_config_accepted {c : Ctx} (h : sessionConfig C s.mcfg s.ccmAlen.toNat = some c) :
    (∃ f t, minit C a l s = .raise f t ∧ f ∈ [.badNonce, .length, .bufBounds, .cipherFail])
      ∨ ∃ t, minit C a l s = .ok t ∧ t.cmdcnt = s.cmdcnt := by
  simp only [minit, hidle, h, Bool.false_eq_true, if_false]
  split
  · next f hfault =>
    have hlisted := firstFault_mem _ f hfault
    refine .inl ⟨f, s, rfl, ?_⟩
    simp only [List.mem_cons, Prod.mk.injEq, List.not_mem_nil, or_false] at hlisted ⊢
    tauto
  · split
    · exact .inl ⟨_, _, rfl, by simp⟩
    · exact .inr ⟨_, rfl, rfl⟩

end

/-- Settles O30: a refused configuration is MINIT's BAD_CONFIG, and after an accepted one either the fault or the count of
commands is another. -/
theorem configurationLegality : Obligations.ConfigurationLegality := by
  unfold Obligations.ConfigurationLegality
  intro s w rest a l hqueue hready hdata
  have hidle := running_eq_false hready hdata
  have hexec : exec (.minit a l) s = finish (minit Config.cipher a l s) := rfl
  rw [← sessionConfig_eq_none_iff, hexec]
  cases hconfig : sessionConfig Config.cipher s.mcfg s.ccmAlen.toNat with
  | none =>
    rw [minit_of_config_refused hidle hconfig, finish_raise, takeFault_eq_faulted _ hqueue]
    exact iff_of_true rfl rfl
  | some c =>
    refine iff_of_false (fun hfaulted => ?_) nofun
    obtain ⟨f, t, hraise, hlisted⟩ | ⟨t, hok, hcount⟩ := minit_of_config_accepted (a := a) (l := l) hidle hconfig
    · rw [hraise, finish_raise] at hfaulted
      have hcode : some f = some .badConfig := congrArg State.err (Host.Outcome.next.inj hfaulted)
      cases hcode
      exact absurd hlisted (by decide)
    · rw [hok, finish_ok] at hfaulted
      have hcounted : t.cmdcnt + 1 = s.cmdcnt := congrArg State.cmdcnt (Host.Outcome.next.inj hfaulted)
      rw [hcount] at hcounted
      bv_omega

/-! ## MRESET -/

theorem exec_mreset {s : State} {w : Word64} {rest : List Word64} (hqueue : s.queue = w :: rest) :
    exec .mreset s = .next ((s.withSession Ctx.zero PhaseReg.zero 0).completed rest) :=
  congrArg Host.Outcome.next (commit_eq_completed (s := s.withSession Ctx.zero PhaseReg.zero 0) hqueue)

/-- With opcode 0x14, the format's reserved field is 0 only in the word 0x14 (30_encoding.md R75). -/
theorem mreset_field_eq_zero_iff {w : Word64} (hopcode : bits w 7 0 = 0x14) : bits w 63 8 = 0 ↔ w = 0x14#64 := by
  refine ⟨fun hfield => ?_, ?_⟩
  · have hlt := w.isLt
    simp only [bits] at hopcode hfield
    exact BitVec.eq_of_toNat_eq (show w.toNat = 0x14 by omega)
  · rintro rfl
    rfl

theorem decode_of_opcode_mreset {w : Word64} (hopcode : bits w 7 0 = 0x14) :
    decode w = if w = 0x14#64 then .ok .mreset else .error .reservedField := by
  have hformat : decode w = decodeN w .mreset := by simp only [decode, hopcode]
  rw [hformat, decodeN, unlessReserved_zeroField]
  simp only [mreset_field_eq_zero_iff hopcode]

/-- Settles O42, from the effect of MRESET and the decoding of opcode 0x14. -/
theorem mresetAbandonsSession : Obligations.MresetAbandonsSession := by
  unfold Obligations.MresetAbandonsSession
  exact ⟨fun _ _ _ => exec_mreset, fun _ => decode_of_opcode_mreset⟩

end Sys2Proof.Proofs
end

section
/-! The counter blocks of GCM and CTR: adding 1 inside the last bytes of a block (46_mode_gcm.md R145, 45_mode_basic.md R141). -/

namespace Sys2Proof.Proofs

open Sys2Proof.Machine Sys2Proof.Laws

/-! ## The numbers of a string's two parts (00_scope.md R17) -/

theorem be_div_mod {s : Bytes} {m n : Nat} (hlen : s.length = m + n) :
    be s / 256 ^ n = be (s.take m) ∧ be s % 256 ^ n = be (s.drop m) := by
  have hsuffix : (s.drop m).length = n := by simp [hlen]
  have hsplit : be s = be (s.take m) * 256 ^ n + be (s.drop m) := by
    rw [← hsuffix, ← be_append, List.take_append_drop]
  rw [Nat.div_mod_unique (by positivity), hsplit, ← hsuffix]
  exact ⟨by ring, be_lt _⟩

/-- The idea of both counters: the sum is written back in n bytes, so its carry is lost there and the m bytes before
them stay. -/
theorem be_increment_suffix {s : Bytes} {m n : Nat} (hlen : s.length = m + n) :
    be (s.take m ++ beBytes n (be (s.drop m) + 1)) = be s / 256 ^ n * 256 ^ n + (be s % 256 ^ n + 1) % 256 ^ n := by
  obtain ⟨htake, hdrop⟩ := be_div_mod hlen
  rw [be_append, be_beBytes, length_beBytes, htake, hdrop]

/-! ## Blocks and their bytes (00_scope.md R18) -/

theorem toNat_blockOf {s : Bytes} (hlen : s.length ≤ 16) : (blockOf s).toNat = be s := by
  have hlt : be s < 2 ^ 128 := (be_lt s).trans_le (Nat.pow_le_pow_right (by decide) hlen)
  rw [blockOf, BitVec.toNat_ofNat, Nat.mod_eq_of_lt hlt]

theorem be_blockBytes {n : Nat} {b : Block} (hfit : b.toNat < 256 ^ n) : be (blockBytes n b) = b.toNat := by
  rw [blockBytes, be_beBytes, Nat.mod_eq_of_lt hfit]

theorem toNat_increment_suffix {b : Block} {m n : Nat} (hsize : m + n ≤ 16) (hfit : b.toNat < 256 ^ (m + n)) :
    (blockOf ((blockBytes (m + n) b).take m ++ beBytes n (be ((blockBytes (m + n) b).drop m) + 1))).toNat
      = b.toNat / 256 ^ n * 256 ^ n + (b.toNat % 256 ^ n + 1) % 256 ^ n := by
  have hlen : (blockBytes (m + n) b).length = m + n := length_beBytes _ _
  rw [toNat_blockOf (by simp [hlen, hsize]), be_increment_suffix hlen, be_blockBytes hfit]

/-- A block of the collaborator's size has that many bytes (10_state.md R52). -/
theorem toNat_lt_of_cut_eq_self {C : Cipher} {b : Block} (hcut : C.cut b = b) : b.toNat < 256 ^ C.bs := by
  cases hwide : C.wide with
  | true => simpa [Cipher.bs, hwide] using b.isLt
  | false =>
    have hmask : b &&& 0xFFFFFFFFFFFFFFFF#128 = b := by simpa [Cipher.cut, hwide] using hcut
    have hle : b.toNat ≤ 2 ^ 64 - 1 := by
      conv_lhs => rw [← hmask, BitVec.toNat_and]
      exact Nat.and_le_right
    have hbs : C.bs = 8 := by simp [Cipher.bs, hwide]
    rw [hbs]
    omega

theorem half_add_half_bs (C : Cipher) : C.bs / 2 + C.bs / 2 = C.bs := by
  unfold Cipher.bs
  split <;> rfl

/-! ## The two counters -/

theorem toNat_inc32 (b : Block) :
    (inc32 b).toNat = b.toNat / 2 ^ 32 * 2 ^ 32 + (b.toNat % 2 ^ 32 + 1) % 2 ^ 32 :=
  toNat_increment_suffix (m := 12) (n := 4) (by decide) b.isLt

theorem toNat_ctrNext {C : Cipher} {b : Block} (hcut : C.cut b = b) :
    (ctrNext C b).toNat
      = b.toNat / 2 ^ (4 * C.bs) * 2 ^ (4 * C.bs) + (b.toNat % 2 ^ (4 * C.bs) + 1) % 2 ^ (4 * C.bs) := by
  have hhalves := half_add_half_bs C
  have hpow : 2 ^ (4 * C.bs) = 256 ^ (C.bs / 2) := by
    rw [show 4 * C.bs = 8 * (C.bs / 2) by omega, Nat.pow_mul]
  have hincrement := toNat_increment_suffix (b := b) (m := C.bs / 2) (n := C.bs / 2)
    (hhalves.trans_le (bs_le_16 C)) (by rw [hhalves]; exact toNat_lt_of_cut_eq_self hcut)
  rw [hhalves] at hincrement
  rw [hpow]
  exact hincrement

/-- Settles O50: each counter adds 1 in a suffix of its block's bytes, of 4 bytes for inc32 and of BS/2 for CTR. -/
theorem countersWrapInTheirSuffix : Obligations.CountersWrapInTheirSuffix := by
  unfold Obligations.CountersWrapInTheirSuffix
  exact ⟨toNat_inc32, fun _ _ => toNat_ctrNext⟩

end Sys2Proof.Proofs
end

section
/-! The format of the CCM blocks B0 and A_i (47_mode_ccm.md R152, R153). -/

namespace Sys2Proof.Proofs

open Sys2Proof.Machine Sys2Proof.Laws

/-- The layout B0 and A_i share (R153): one header byte, the nonce, and a number in the bytes the nonce leaves. -/
theorem toNat_blockOf_header_nonce_number {h q v : Nat} {n : Bytes} (hlen : n.length + q = 15) (hheader : h < 256)
    (hfit : v < 2 ^ (8 * q)) :
    (blockOf (beBytes 1 h ++ n ++ beBytes q v)).toNat = h * 2 ^ 120 + be n * 2 ^ (8 * q) + v := by
  have hbytes : ∀ k, 256 ^ k = 2 ^ (8 * k) := fun k => (Nat.pow_mul 2 8 k).symm
  have hshift : 2 ^ (8 * n.length) * 2 ^ (8 * q) = 2 ^ 120 := by
    rw [← Nat.pow_add, ← Nat.mul_add, hlen]
  calc (blockOf (beBytes 1 h ++ n ++ beBytes q v)).toNat
      = be (beBytes 1 h ++ n ++ beBytes q v) := toNat_blockOf (by simp; omega)
    _ = (h * 2 ^ (8 * n.length) + be n) * 2 ^ (8 * q) + v := by
        rw [be_append, be_append, be_beBytes, be_beBytes, length_beBytes, hbytes n.length, hbytes q,
          Nat.mod_eq_of_lt (by omega : h < 256 ^ 1), Nat.mod_eq_of_lt hfit]
    _ = h * 2 ^ 120 + be n * 2 ^ (8 * q) + v := by rw [Nat.add_mul, Nat.mul_assoc, hshift]

/-- The flags of R152 fill one byte: `t` is at most 16 and `q` at most 8. -/
theorem ccmFlags_lt {calen t q : Nat} (ht : t ≤ 16) (hq : q ≤ 8) : ccmFlags calen t q < 256 := by
  unfold ccmFlags
  split <;> omega

theorem toNat_ccmB0 {n : Bytes} {calen cmlen t q : Nat} (hlen : n.length + q = 15) (hq : q ≤ 8) (ht : t ≤ 16)
    (hfit : cmlen < 2 ^ (8 * q)) :
    (ccmB0 calen cmlen t n).toNat = ccmFlags calen t q * 2 ^ 120 + be n * 2 ^ (8 * q) + cmlen := by
  have hqn : 15 - n.length = q := by omega
  rw [ccmB0, hqn]
  exact toNat_blockOf_header_nonce_number hlen (ccmFlags_lt ht hq) hfit

theorem toNat_ccmA {n : Bytes} {q i : Nat} (hlen : n.length + q = 15) (hfit : i < 2 ^ (8 * q)) :
    (ccmA q n i).toNat = (q - 1) * 2 ^ 120 + be n * 2 ^ (8 * q) + i :=
  toNat_blockOf_header_nonce_number hlen (by omega) hfit

/-- Settles O53: B0 and A_i are one layout with different header bytes, read big-endian. -/
theorem ccmBlocksAreFormatted : Obligations.CcmBlocksAreFormatted := by
  unfold Obligations.CcmBlocksAreFormatted
  refine ⟨⟨rfl, be_cons⟩, fun n calen cmlen t q i hmin hmax hq ht hcmlen hi => ?_⟩
  have hlen : n.length + q = 15 := by omega
  have hlegal : t ≤ 16 := (by decide : ∀ t ∈ [4, 6, 8, 10, 12, 14, 16], t ≤ 16) t ht
  exact ⟨toNat_ccmB0 hlen (by omega) hlegal hcmlen, toNat_ccmA hlen hi⟩

end Sys2Proof.Proofs
end

section
/-! Doubling in GF(2^128), the masks of OCB and the count of trailing zeros that selects a mask (48_mode_ocb.md R160, R161). -/

namespace Sys2Proof.Proofs

open Sys2Proof.Machine Sys2Proof.Laws

/-- R160's msb(S) as a bound: the top bit is set in the upper half of the blocks' numbers. -/
theorem getLsbD_127_eq_decide (s : Block) : s.getLsbD 127 = decide (2 ^ 127 ≤ s.toNat) :=
  BitVec.getLsbD_last s

theorem toNat_shiftLeft_one (s : Block) : (s <<< 1).toNat = 2 * s.toNat % 2 ^ 128 := by
  rw [BitVec.toNat_shiftLeft, Nat.shiftLeft_eq, pow_one, Nat.mul_comm]

theorem toNat_ocbDouble (s : Block) :
    (ocbDouble s).toNat = (2 * s.toNat % 2 ^ 128) ^^^ (if 2 ^ 127 ≤ s.toNat then 0x87 else 0) := by
  rw [ocbDouble, BitVec.toNat_xor, toNat_shiftLeft_one, getLsbD_127_eq_decide]
  simp only [decide_eq_true_eq]
  split <;> rfl

theorem ocbL_zero (ldollar : Block) : ocbL ldollar 0 = ocbDouble ldollar := rfl

theorem ocbL_succ (ldollar : Block) (j : Nat) : ocbL ldollar (j + 1) = ocbDouble (ocbL ldollar j) := rfl

/-- `2 ^ ntz i` is the largest power of 2 that divides `i`, since the quotient is odd. -/
theorem pow_ntz_dvd_and_not_succ {i : Nat} (hi : 0 < i) : 2 ^ ntz i ∣ i ∧ ¬2 ^ (ntz i + 1) ∣ i := by
  obtain ⟨hdvd, hodd⟩ := ntz_spec i hi
  refine ⟨hdvd, ?_⟩
  rw [pow_succ, ← Nat.dvd_div_iff_mul_dvd hdvd, Nat.two_dvd_ne_zero]
  exact hodd

/-- Settles O51: doubling as a number, its two examples, the recursion of the masks, and the power of 2 that `ntz` finds. -/
theorem ocbDoubling : Obligations.OcbDoubling := by
  unfold Obligations.OcbDoubling
  exact ⟨toNat_ocbDouble, by decide, by decide, fun ldollar j => ⟨ocbL_zero ldollar, ocbL_succ ldollar j⟩,
    fun _ => pow_ntz_dvd_and_not_succ⟩

end Sys2Proof.Proofs
end

section
/-! PKCS7 padding, added and removed (49_padding.md R170 to R172, R176). -/

namespace Sys2Proof.Proofs

open Sys2Proof.Machine

/-! ## The addition of padding -/

section
variable {bs : Nat} (l : Nat) (x : Bytes)

theorem padLen_pkcs7 : padLen bs .pkcs7 l = bs - l % bs := rfl

theorem padAdd_pkcs7 :
    padAdd bs .pkcs7 x = x ++ List.replicate (padLen bs .pkcs7 x.length) (BitVec.ofNat 8 (padLen bs .pkcs7 x.length)) :=
  rfl

/-- Even aligned data gets at least one byte, so that the removal always finds a count. -/
theorem padLen_pkcs7_pos (hbs : 0 < bs) : 0 < padLen bs .pkcs7 l :=
  Nat.sub_pos_of_lt (Nat.mod_lt l hbs)

theorem padLen_pkcs7_le : padLen bs .pkcs7 l ≤ bs := Nat.sub_le _ _

/-- The padding ends the block in which the data ends. -/
theorem dvd_add_padLen_pkcs7 (hbs : 0 < bs) : bs ∣ l + padLen bs .pkcs7 l := by
  refine ⟨l / bs + 1, ?_⟩
  have hdivision := Nat.div_add_mod l bs
  have hremainder := Nat.mod_lt l hbs
  rw [padLen_pkcs7, Nat.mul_add_one]
  omega

theorem padLen_pkcs7_self : padLen bs .pkcs7 bs = bs := by
  rw [padLen_pkcs7, Nat.mod_self, Nat.sub_zero]

@[simp] theorem length_padAdd_pkcs7 : (padAdd bs .pkcs7 x).length = x.length + padLen bs .pkcs7 x.length := by
  rw [padAdd_pkcs7, List.length_append, List.length_replicate]

/-- The last byte of a padded string is the count of its padding. -/
theorem getLast?_padAdd_pkcs7 (hbs : 0 < bs) :
    (padAdd bs .pkcs7 x).getLast? = some (BitVec.ofNat 8 (padLen bs .pkcs7 x.length)) := by
  have hne := (padLen_pkcs7_pos x.length hbs).ne'
  rw [padAdd_pkcs7, List.getLast?_append, List.getLast?_replicate, if_neg hne, Option.some_or]

end

/-! ## The removal of padding: the last byte decides -/

section
variable {bs : Nat} {y : Bytes} {b : Byte}

theorem padRemove_pkcs7_of_getLast? (hlast : y.getLast? = some b) :
    padRemove bs .pkcs7 y = if b.toNat = 0 ∨ bs < b.toNat ∨ y.length < b.toNat then none
      else some (y.take (y.length - b.toNat)) := by
  rw [padRemove, List.getLastD_eq_getLast?, hlast, Option.getD_some]

/-- A last byte of 0 or above BS is malformed padding (49_padding.md R172). -/
theorem padRemove_pkcs7_of_malformed (hlast : y.getLast? = some b) (hmalformed : b.toNat = 0 ∨ bs < b.toNat) :
    padRemove bs .pkcs7 y = none := by
  rw [padRemove_pkcs7_of_getLast? hlast, if_pos (by omega)]

/-- Any other last byte is the number of bytes taken away. -/
theorem padRemove_pkcs7_of_wellformed (hlast : y.getLast? = some b) (hpos : 0 < b.toNat) (hle : b.toNat ≤ bs)
    (hlength : b.toNat ≤ y.length) : padRemove bs .pkcs7 y = some (y.take (y.length - b.toNat)) := by
  rw [padRemove_pkcs7_of_getLast? hlast, if_neg (by omega)]

end

/-- The removal undoes the addition (49_padding.md R176): the count fits in the last byte, and it is the number of bytes
added. -/
theorem padRemove_padAdd_pkcs7 {bs : Nat} (x : Bytes) (hbs : 0 < bs) (hbyte : bs < 256) :
    padRemove bs .pkcs7 (padAdd bs .pkcs7 x) = some x := by
  have hpos := padLen_pkcs7_pos x.length hbs
  have hle : padLen bs .pkcs7 x.length ≤ bs := padLen_pkcs7_le x.length
  have hcount : (BitVec.ofNat 8 (padLen bs .pkcs7 x.length)).toNat = padLen bs .pkcs7 x.length :=
    (BitVec.toNat_ofNat _ 8).trans (Nat.mod_eq_of_lt (hle.trans_lt hbyte))
  rw [padRemove_pkcs7_of_wellformed (getLast?_padAdd_pkcs7 x hbs) (by rwa [hcount]) (by rwa [hcount])
      (by rw [hcount, length_padAdd_pkcs7]; exact Nat.le_add_left _ _),
    hcount, length_padAdd_pkcs7, Nat.add_sub_cancel, padAdd_pkcs7, List.take_left]

/-- Settles O48, from the length and the last byte of a padded string; of the block size only that it is a positive byte
is used. -/
theorem paddingIdempotence : Obligations.PaddingIdempotence := by
  unfold Obligations.PaddingIdempotence
  intro bs x y n hsize
  have hbs : 0 < bs := by omega
  have hbyte : bs < 256 := by omega
  rw [length_padAdd_pkcs7]
  refine ⟨padRemove_padAdd_pkcs7 x hbs hbyte, Nat.mod_eq_zero_of_dvd (dvd_add_padLen_pkcs7 x.length hbs),
    Nat.add_le_add_left (padLen_pkcs7_pos x.length hbs) _, Nat.add_le_add_left (padLen_pkcs7_le x.length) _,
    fun haligned => ?_, padLen_pkcs7 x.length, padAdd_pkcs7 x, ?_⟩
  · rw [haligned, padLen_pkcs7_self, Nat.two_mul]
  · rintro hlength ⟨b, hlast, rfl⟩
    exact ⟨padRemove_pkcs7_of_malformed hlast,
      fun hpos hle => padRemove_pkcs7_of_wellformed hlast hpos hle (hle.trans hlength)⟩

end Sys2Proof.Proofs
end

section
/-! The faults that a command raises before any other check of its own: REG_UNINIT for an invalid source register
(41_biguint_data.md R96, 60_exceptions.md R182) and SEQUENCE for a forbidden session phase (60_exceptions.md R183). -/

namespace Sys2Proof.Proofs

open Sys2Proof.Machine Sys2Proof.Laws

/-- A command that raises a fault in the state it started in changes nothing but the fault registers and the queue
(60_exceptions.md R195). -/
theorem finish_raise_eq_faulted {s : State} {w : Word64} {rest : List Word64} (c : FaultCode)
    (hqueue : s.queue = w :: rest) : finish (.raise c s) = .next (s.faulted w c) := by
  rw [finish_raise, takeFault_eq_faulted c hqueue]

/-! ## The source registers of a command -/

/-- The result of a command that reads its source registers, in their order, before it does anything else. -/
inductive ReadsFirst (s : State) : List Reg → Result → Prop where
  | nil (result : Result) : ReadsFirst s [] result
  | cons {r : Reg} {rs : List Reg} {k : Nat → Result} (hrest : ∀ v, ReadsFirst s rs (k v)) :
    ReadsFirst s (r :: rs) (s.source r k)

/-- The first source found invalid ends the command. -/
theorem ReadsFirst.eq_raise_of_lacks {s : State} {rs : List Reg} {result : Result} (hreads : ReadsFirst s rs result)
    (hlacks : ∃ r ∈ rs, s.lacks r) : result = .raise .regUninit s := by
  induction hreads with
  | nil => nomatch hlacks
  | @cons r rs k _ ih =>
    obtain ⟨v, hvalue, hread⟩ | ⟨-, hraise⟩ := source_cases s r k
    · obtain ⟨q, hq, hinvalid⟩ := hlacks
      have hother : q ≠ r := by
        rintro rfl
        rw [(readReg_eq_none s q).mpr hinvalid] at hvalue
        nomatch hvalue
      rw [hread]
      exact ih v ⟨q, List.mem_of_ne_of_mem hother hq, hinvalid⟩
    · exact hraise

/-- Every command reads its source registers first (41_biguint_data.md R96): by the number of its sources. -/
theorem exec_reads_sources_first (i : Instr) (s : State) :
    ∃ result, exec i s = finish result ∧ ReadsFirst s (sourceRegs i) result := by
  cases i with
  | nop => exact ⟨.ok s, rfl, .nil _⟩
  | mreset => exact ⟨.ok (mreset s), rfl, .nil _⟩
  | bldi rd imm => exact ⟨.ok (s.putReg rd imm), rfl, .nil _⟩
  | wcsr | minit | maad | mproc | mfinal | bld => exact ⟨_, rfl, .nil _⟩
  | bst | bmov | bgetw | bshl | bshr => exact ⟨_, rfl, .cons fun _ => .nil _⟩
  | bsetw | badd | bsub | bmulw | bmul | bdiv | band | bor | bxor | bcmp | bgcd | binv | bsprp =>
    exact ⟨_, rfl, .cons fun _ => .cons fun _ => .nil _⟩
  | bpow => exact ⟨_, rfl, .cons fun _ => .cons fun _ => .cons fun _ => .nil _⟩

/-- Settles O12: every command reads its sources first, and the first invalid one raises REG_UNINIT in the state it
started in. -/
theorem invalidSourceRaisesRegUninit : Obligations.InvalidSourceRaisesRegUninit := by
  unfold Obligations.InvalidSourceRaisesRegUninit
  intro i s w rest hqueue hlacks
  obtain ⟨result, hexec, hreads⟩ := exec_reads_sources_first i s
  rw [hexec, hreads.eq_raise_of_lacks hlacks, finish_raise_eq_faulted _ hqueue]

/-! ## The phase of the session -/

theorem running_iff {p : PhaseReg} : p.running = true ↔ p.ph = .ready ∨ p.ph = .data := by
  simp only [PhaseReg.running, Bool.or_eq_true, beq_iff_eq]

theorem aadMissing_iff {s : State} :
    aadMissing s = true ↔ s.ctx.mode = .ccm ∧ 0 < s.ctx.calen ∧ s.phase.aadDone = false := by
  simp only [aadMissing, Bool.and_eq_true, beq_iff_eq, decide_eq_true_eq, Bool.not_eq_true', and_assoc]

theorem isAuth_iff {m : Mode} : m.isAuth = true ↔ m = .gcm ∨ m = .ccm ∨ m = .ocb := by
  simp only [Mode.isAuth, Bool.or_eq_true, beq_iff_eq, or_assoc]

/-- The fault of a check that holds comes before those of the checks behind it (60_exceptions.md R194). -/
theorem firstFault_cons_of_holds {bad : Bool} {c : FaultCode} {checks : List (Bool × FaultCode)} (h : bad = true) :
    firstFault ((bad, c) :: checks) = some c :=
  if_pos h

theorem firstFault_cons_of_passes {bad : Bool} {c : FaultCode} {checks : List (Bool × FaultCode)} (h : bad = false) :
    firstFault ((bad, c) :: checks) = firstFault checks :=
  if_neg (Bool.eq_false_iff.mp h)

section
variable {C : Cipher} {s : State} {a b l : Nat}

/-! ### A mode-engine command whose checks find a fault raises it, and changes nothing -/

theorem minit_of_running (hrunning : s.phase.running = true) : minit C a l s = .raise .sequence s := if_pos hrunning

theorem maad_of_fault {c : FaultCode} (h : firstFault (maadChecks a l s) = some c) : maad C a l s = .raise c s := by
  simp only [maad, h]

theorem mproc_of_fault {c : FaultCode} (h : firstFault (mprocChecks C a b l s) = some c) :
    mproc C a b l s = .raise c s := by
  simp only [mproc, h]

theorem mfinal_of_fault {c : FaultCode} (h : firstFault (mfinalChecks C a b l s) = some c) :
    mfinal C a b l s = .raise c s := by
  simp only [mfinal, h]

/-! ### The checks of the session phase -/

/-- MAAD wants a session of an authenticated mode that is READY and has had no AAD yet (44_mode_session.md R130). -/
theorem firstFault_maadChecks_of_phase
    (h : s.phase.ph ≠ .ready ∨ s.phase.aadDone = true ∨ (s.ctx.mode ≠ .gcm ∧ s.ctx.mode ≠ .ccm ∧ s.ctx.mode ≠ .ocb)) :
    firstFault (maadChecks a l s) = some .sequence := by
  refine firstFault_cons_of_holds ?_
  rw [Bool.or_eq_true, Bool.or_eq_true, bne_iff_ne, Bool.not_eq_true', ← Bool.not_eq_true, isAuth_iff, not_or, not_or,
    or_assoc]
  exact h

/-- The phases in which a session takes no data: it is not running, or its CCM AAD is still to come
(44_mode_session.md R131, R132). -/
def TakesNoData (s : State) : Prop :=
  (s.phase.ph ≠ .ready ∧ s.phase.ph ≠ .data)
    ∨ (s.ctx.mode = .ccm ∧ 0 < s.ctx.calen ∧ s.phase.aadDone = false)

/-- The two checks with which those of MPROC and of MFINAL begin. -/
theorem firstFault_of_takesNoData (checks : List (Bool × FaultCode)) (h : TakesNoData s) :
    firstFault ((!s.phase.running, .sequence) :: (aadMissing s, .sequence) :: checks) = some .sequence := by
  cases hrunning : s.phase.running with
  | false => exact firstFault_cons_of_holds rfl
  | true =>
    have hphase := running_iff.mp hrunning
    obtain ⟨hready, hdata⟩ | haad := h
    · exact absurd hphase (not_or.mpr ⟨hready, hdata⟩)
    · exact (firstFault_cons_of_passes rfl).trans (firstFault_cons_of_holds (aadMissing_iff.mpr haad))

theorem firstFault_mprocChecks_of_takesNoData (h : TakesNoData s) :
    firstFault (mprocChecks C a b l s) = some .sequence :=
  firstFault_of_takesNoData _ h

theorem firstFault_mfinalChecks_of_takesNoData (h : TakesNoData s) :
    firstFault (mfinalChecks C a b l s) = some .sequence :=
  firstFault_of_takesNoData _ h

end

theorem exec_minit (a l : Nat) (s : State) : exec (.minit a l) s = finish (minit Config.cipher a l s) := rfl
theorem exec_maad (a l : Nat) (s : State) : exec (.maad a l) s = finish (maad Config.cipher a l s) := rfl
theorem exec_mproc (a b l : Nat) (s : State) : exec (.mproc a b l) s = finish (mproc Config.cipher a b l s) := rfl
theorem exec_mfinal (a b l : Nat) (s : State) : exec (.mfinal a b l) s = finish (mfinal Config.cipher a b l s) := rfl

/-- Settles O13: the phase is the first thing each of the four commands checks. -/
theorem phaseForbidsCommand : Obligations.PhaseForbidsCommand := by
  unfold Obligations.PhaseForbidsCommand
  intro s w rest a b l hqueue
  rw [exec_minit, exec_maad, exec_mproc, exec_mfinal, ← finish_raise_eq_faulted _ hqueue]
  refine ⟨fun hrunning => ?_, fun hphase => ?_, fun hphase => ⟨?_, ?_⟩⟩
  · rw [minit_of_running (running_iff.mpr hrunning)]
  · rw [maad_of_fault (firstFault_maadChecks_of_phase hphase)]
  · rw [mproc_of_fault (firstFault_mprocChecks_of_takesNoData hphase)]
  · rw [mfinal_of_fault (firstFault_mfinalChecks_of_takesNoData hphase)]

end Sys2Proof.Proofs
end

section
/-! STATUS, QCOUNT and the registers of the last fault, as the host reads them, and the write to STATUS
(10_state.md R33 to R37, 60_exceptions.md R177, R198). -/

namespace Sys2Proof.Proofs

open Sys2Proof.Machine

/-! ## The size of a field -/

theorem bits_lt {n : Nat} (w : BitVec n) (hi lo : Nat) : bits w hi lo < 2 ^ (hi + 1 - lo) :=
  Nat.mod_lt _ (Nat.two_pow_pos _)

/-- A field of one bit that is not 1 is 0. -/
theorem bits_self_eq_zero_iff {n : Nat} (w : BitVec n) (k : Nat) : bits w k k = 0 ↔ bits w k k ≠ 1 := by
  have hlt := bits_lt w k k
  rw [Nat.add_sub_cancel_left] at hlt
  omega

/-- A field of at most 32 bits is a word. -/
theorem toNat_ofNat_bits {n hi lo : Nat} (w : BitVec n) (hwidth : hi + 1 - lo ≤ 32) :
    (BitVec.ofNat 32 (bits w hi lo)).toNat = bits w hi lo := by
  rw [BitVec.toNat_ofNat, Nat.mod_eq_of_lt]
  exact (bits_lt w hi lo).trans_le (Nat.pow_le_pow_right (by decide) hwidth)

/-! ## The registers by offset -/

section
variable (C : Cipher) (s : State) (v : Word32)

@[simp] theorem hostReadAt_status : hostReadAt C s 0x10 = statusWord s := rfl
@[simp] theorem hostReadAt_qcount : hostReadAt C s 0x14 = BitVec.ofNat 32 s.queue.length := rfl
@[simp] theorem hostReadAt_cmdcnt : hostReadAt C s 0x18 = s.cmdcnt := rfl
@[simp] theorem hostReadAt_erridx : hostReadAt C s 0x1C = s.erridx := rfl
@[simp] theorem hostReadAt_errcmdLo : hostReadAt C s 0x20 = BitVec.ofNat 32 (bits s.errcmd 31 0) := rfl
@[simp] theorem hostReadAt_errcmdHi : hostReadAt C s 0x24 = BitVec.ofNat 32 (bits s.errcmd 63 32) := rfl

@[simp] theorem hostWriteAt_status : hostWriteAt s 0x10 v = writeStatus v s := rfl

end

/-! ## STATUS -/

/-- ERRCODE fits its byte. -/
theorem errCode_lt (s : State) : errCode s < 2 ^ 8 := by
  unfold errCode
  split
  · next c _ => cases c <;> decide
  · decide

/-- The fields of STATUS do not overlap: seven of one bit, the reserved bit 7, and ERRCODE (10_state.md R33). -/
theorem statusWord_fields (s : State) :
    bits (statusWord s) 0 0 = (decide (s.queue.length ≠ 0)).toNat
      ∧ bits (statusWord s) 1 1 = (decide (s.queue.length = 0)).toNat
      ∧ bits (statusWord s) 2 2 = (decide (s.queue.length = Config.CQ_DEPTH)).toNat
      ∧ bits (statusWord s) 3 3 = s.err.isSome.toNat
      ∧ bits (statusWord s) 4 4 = s.done.toNat
      ∧ bits (statusWord s) 5 5 = s.ovf.toNat
      ∧ bits (statusWord s) 6 6 = (irq s).toNat
      ∧ bits (statusWord s) 7 7 = 0
      ∧ bits (statusWord s) 15 8 = errCode s
      ∧ bits (statusWord s) 31 16 = 0 := by
  have hbusy := Bool.toNat_le (decide (s.queue.length ≠ 0))
  have hempty := Bool.toNat_le (decide (s.queue.length = 0))
  have hfull := Bool.toNat_le (decide (s.queue.length = Config.CQ_DEPTH))
  have herr := Bool.toNat_le s.err.isSome
  have hdone := Bool.toNat_le s.done
  have hovf := Bool.toNat_le s.ovf
  have hirq := Bool.toNat_le (irq s)
  have hcode := errCode_lt s
  unfold statusWord
  refine ⟨?_, ?_, ?_, ?_, ?_, ?_, ?_, ?_, ?_, ?_⟩ <;> rw [bits_ofNat _ (by decide) (by decide)] <;> omega

theorem toNat_eq_ite_of_iff {b : Bool} {p : Prop} [Decidable p] (h : b = true ↔ p) : b.toNat = if p then 1 else 0 :=
  (Bool.cond_eq_ite _ _ _).trans (if_congr h rfl rfl)

/-- The interrupt line, source by source (60_exceptions.md R198). -/
theorem irq_iff (s : State) :
    irq s = true ↔ (s.enables.done ∧ s.done) ∨ (s.enables.err ∧ s.err ≠ none) ∨ (s.enables.ovf ∧ s.ovf) := by
  simp only [irq, Bool.or_eq_true, Bool.and_eq_true, Option.isSome_iff_ne_none, or_assoc]

/-! ## The write to STATUS -/

/-- A bit written as 1 clears its flag, and one written as 0 leaves it (10_state.md R33). -/
theorem and_bit_zero_eq_clear (flag : Bool) (v : Word32) (k : Nat) :
    (flag && bits v k k == 0) = if bits v k k = 1 then false else flag := by
  split
  · next hset => rw [hset]; exact Bool.and_false flag
  · next hclear => rw [(bits_self_eq_zero_iff v k).mpr hclear]; exact Bool.and_true flag

theorem writeStatus_eq (v : Word32) (s : State) :
    writeStatus v s =
      { s with err := if bits v 3 3 = 1 then none else s.err
               done := if bits v 4 4 = 1 then false else s.done
               ovf := if bits v 5 5 = 1 then false else s.ovf } := by
  simp only [writeStatus, and_bit_zero_eq_clear]
  split <;> rfl

/-- Settles O55, from the fields of STATUS, the read-outs of the other registers and the write to STATUS. -/
theorem statusAndQueueCount : Obligations.StatusAndQueueCount := by
  unfold Obligations.StatusAndQueueCount
  intro C s v
  obtain ⟨hbusy, hempty, hfull, herr, hdone, hovf, hirq, hreserved, hcode, hupper⟩ := statusWord_fields s
  rw [hostReadAt_status, hostReadAt_qcount, hostReadAt_errcmdLo, hostReadAt_errcmdHi, hostWriteAt_status]
  refine ⟨?_, ?_, ?_, ?_, ?_, ?_, ?_, hreserved, ?_, hupper, rfl, fun hdepth => ?_, hostReadAt_cmdcnt C s,
    hostReadAt_erridx C s, toNat_ofNat_bits _ (by decide), toNat_ofNat_bits _ (by decide), writeStatus_eq v s⟩
  · exact hbusy.trans (toNat_eq_ite_of_iff decide_eq_true_iff)
  · exact hempty.trans (toNat_eq_ite_of_iff decide_eq_true_iff)
  · exact hfull.trans (toNat_eq_ite_of_iff decide_eq_true_iff)
  · exact herr.trans (toNat_eq_ite_of_iff Option.isSome_iff_ne_none)
  · exact hdone.trans (toNat_eq_ite_of_iff Iff.rfl)
  · exact hovf.trans (toNat_eq_ite_of_iff Iff.rfl)
  · exact hirq.trans (toNat_eq_ite_of_iff (irq_iff s))
  · rw [hcode, errCode]
    cases s.err with
    | none => rfl
    | some c => cases c <;> rfl
  · unfold Config.CQ_DEPTH at hdepth
    exact (BitVec.toNat_ofNat _ 32).trans (Nat.mod_eq_of_lt (by omega))

end Sys2Proof.Proofs
end

section
/-! The values after power-on reset, as the host reads them (70_reset_and_hazards.md R205). -/

namespace Sys2Proof.Proofs

open Sys2Proof.Machine

/-! ## CTRL and the CSRs by offset -/

@[simp] theorem hostReadAt_ctrl (C : Cipher) (s : State) : hostReadAt C s 0x0C = ctrlWord s := rfl

/-- The CSRs stand at 0x40 to 0x5C, one word each (10_state.md R39). -/
theorem hostReadAt_csr (C : Cipher) (s : State) {n : Nat} (hn : n < 8) :
    hostReadAt C s (0x40 + 4 * n) = s.readCsr n := by
  have hindex : (0x40 + 4 * n - 0x40) / 4 = n := by omega
  unfold hostReadAt
  rw [if_neg (by omega), if_pos (by omega), hindex]

/-! ## The power-on state -/

/-- Invalid registers give a BVALID of 0, however many there are (10_state.md R46). -/
theorem validBits_replicate_invalid (n : Nat) : validBits (List.replicate n BigReg.invalid) = 0 := by
  induction n with
  | zero => rfl
  | succ n ih => rw [List.replicate_succ, validBits, ih]; rfl

section
variable (bufInit : Memory)

@[simp] theorem powerOn_regs : (State.powerOn bufInit).regs = Vector.replicate 16 BigReg.invalid := rfl
@[simp] theorem powerOn_errcmd : (State.powerOn bufInit).errcmd = 0 := rfl

theorem powerOn_lacks (r : Reg) : (State.powerOn bufInit).lacks r := by
  rw [State.lacks, powerOn_regs, Vector.getElem_replicate]
  rfl

theorem bvalidWord_powerOn : bvalidWord (State.powerOn bufInit) = 0 := by
  rw [bvalidWord, powerOn_regs, Vector.toList_replicate, validBits_replicate_invalid]
  rfl

theorem readCsr_powerOn (n : Nat) : (State.powerOn bufInit).readCsr n = 0 := by
  unfold State.readCsr
  split
  iterate 7 · rfl
  · exact bvalidWord_powerOn bufInit
  · rfl

theorem ctrlWord_powerOn : ctrlWord (State.powerOn bufInit) = 0 := rfl

/-- No enable is on, so no source drives the interrupt line (60_exceptions.md R198). -/
theorem irq_powerOn : irq (State.powerOn bufInit) = false := rfl

/-- Only QEMPTY is set (10_state.md R33). -/
theorem statusWord_powerOn : statusWord (State.powerOn bufInit) = 0x00000002#32 := rfl

/-- CMDCNT, ERRIDX, ERRCMD_LO and ERRCMD_HI count nothing and hold no fault yet (10_state.md R35 to R37). -/
theorem hostReadAt_faultRegisters_powerOn (C : Cipher) :
    ∀ off ∈ [0x18, 0x1C, 0x20, 0x24], hostReadAt C (State.powerOn bufInit) off = 0 := by
  simp only [List.forall_mem_cons, hostReadAt_cmdcnt, hostReadAt_erridx, hostReadAt_errcmdLo, hostReadAt_errcmdHi,
    powerOn_errcmd]
  exact ⟨rfl, rfl, by decide, by decide, List.forall_mem_nil _⟩

end

/-- ID, PARAM and PARAM2 read the same in any two states (10_state.md R30, R31). -/
theorem hostReadAt_constants (C : Cipher) (s t : State) :
    ∀ off ∈ [0x00, 0x04, 0x08], hostReadAt C s off = hostReadAt C t off := by
  simp [hostReadAt_id, hostReadAt_param, hostReadAt_param2]

/-- Settles O6, from the host's view of the power-on state, register by register. -/
theorem powerOnValues : Obligations.PowerOnValues := by
  unfold Obligations.PowerOnValues
  intro C bufInit
  have hcsr (n : Nat) (hn : n < 8) : hostReadAt C (State.powerOn bufInit) (0x40 + 4 * n) = 0 :=
    (hostReadAt_csr C _ hn).trans (readCsr_powerOn bufInit n)
  rw [hostReadAt_qcount, hostReadAt_ctrl, hostReadAt_status]
  exact ⟨powerOn_lacks bufInit, rfl, hcsr, rfl, rfl, rfl, rfl, rfl, ctrlWord_powerOn bufInit, statusWord_powerOn bufInit,
    hostReadAt_faultRegisters_powerOn bufInit C, irq_powerOn bufInit, rfl, fun s => hostReadAt_constants C s _⟩

end Sys2Proof.Proofs
end

section
/-! Encoding and decoding are inverse, and a word decodes exactly when it matches its row of the opcode table
(30_encoding.md sections 2 and 3). -/

namespace Sys2Proof.Proofs

open Sys2Proof.Machine Sys2Proof.Laws

/-! ## The word of a well-formed command -/

theorem fits_iff {width n : Nat} : fits width n = true ↔ n < 2 ^ width := decide_eq_true_iff

theorem bits_encode_opcode (i : Instr) : bits (encode i) 7 0 = opcodeOf i := by
  cases i with
  | nop => exact OpcodeField.nop
  | wcsr csr imm => exact OpcodeField.wcsr csr imm
  | minit a l => exact OpcodeField.minit a l
  | maad a l => exact OpcodeField.maad a l
  | mproc a b l => exact OpcodeField.mproc a b l
  | mfinal a b l => exact OpcodeField.mfinal a b l
  | mreset => exact OpcodeField.mreset
  | bldi rd imm => exact OpcodeField.bldi rd imm
  | bld r a l => exact OpcodeField.bld r a l
  | bst r a l => exact OpcodeField.bst r a l
  | bmov rd rs1 => exact OpcodeField.bmov rd rs1
  | bgetw rd rs1 idx => exact OpcodeField.bgetw rd rs1 idx
  | bsetw rd rs1 idx => exact OpcodeField.bsetw rd rs1 idx
  | badd rd rs1 rs2 => exact OpcodeField.badd rd rs1 rs2
  | bsub rd rs1 rs2 => exact OpcodeField.bsub rd rs1 rs2
  | bmulw rd rs1 rs2 => exact OpcodeField.bmulw rd rs1 rs2
  | bmul rd rs1 rs2 => exact OpcodeField.bmul rd rs1 rs2
  | bdiv rd rs1 rs2 rs3 => exact OpcodeField.bdiv rd rs1 rs2 rs3
  | bshl rd rs1 n => exact OpcodeField.bshl rd rs1 n
  | bshr rd rs1 n => exact OpcodeField.bshr rd rs1 n
  | band rd rs1 rs2 => exact OpcodeField.band rd rs1 rs2
  | bor rd rs1 rs2 => exact OpcodeField.bor rd rs1 rs2
  | bxor rd rs1 rs2 => exact OpcodeField.bxor rd rs1 rs2
  | bcmp rs1 rs2 => exact OpcodeField.bcmp rs1 rs2
  | bpow rd rs1 rs2 rs3 => exact OpcodeField.bpow rd rs1 rs2 rs3
  | bgcd rd rs1 rs2 => exact OpcodeField.bgcd rd rs1 rs2
  | binv rd rs1 rs2 => exact OpcodeField.binv rd rs1 rs2
  | bsprp rs1 rs2 => exact OpcodeField.bsprp rs1 rs2

theorem opcodeOf_lt (i : Instr) : opcodeOf i < 2 ^ 8 := by
  rw [← bits_encode_opcode]
  exact Nat.mod_lt _ (by decide)

/-- The fields of a well-formed command stay inside its word, by the highest field of its format. -/
theorem opcodeOf_add_operandFields_lt {i : Instr} (h : i.wellFormed = true) : opcodeOf i + operandFields i < 2 ^ 64 := by
  cases i with
  | nop | mreset => decide
  | wcsr | minit | maad | mproc | mfinal | bldi | bld | bst | bgetw | bsetw | bshl | bshr =>
    simp only [Instr.wellFormed, Bool.and_eq_true, fits_iff] at h
    simp only [opcodeOf, operandFields]
    omega
  | bmov | badd | bsub | bmulw | bmul | bdiv | band | bor | bxor | bcmp | bpow | bgcd | binv | bsprp =>
    simp only [opcodeOf, operandFields]
    omega

theorem toNat_encode {i : Instr} (h : i.wellFormed = true) : (encode i).toNat = opcodeOf i + operandFields i := by
  rw [encode, BitVec.toNat_ofNat, Nat.mod_eq_of_lt (opcodeOf_add_operandFields_lt h)]

/-! ## Reading a format back from the number of the word -/

theorem zeroField_iff (w : Word64) (hi lo : Nat) : zeroField w hi lo = true ↔ bits w hi lo = 0 := beq_iff_eq

/-- A register field reads the register whose number stands there. -/
theorem regField_eq {w : Word64} {r : Reg} {lo : Nat} (h : w.toNat / 2 ^ lo % 16 = r.val) : regField w lo = r := Fin.ext h

section
variable {w : Word64} {op : Nat} (hop : op < 2 ^ 8)
include hop

theorem decodeN_of_toNat (hw : w.toNat = op) (i : Instr) : decodeN w i = .ok i := by
  rw [decodeN, unlessReserved_eq_ok, zeroField_iff, bits]
  exact ⟨by omega, rfl⟩

theorem decodeM_of_toNat {a l : Nat} (ha : a < 2 ^ 16) (hw : w.toNat = op + (a * 2 ^ 16 + l * 2 ^ 48))
    (mk : Nat → Nat → Instr) : decodeM w mk = .ok (mk a l) := by
  simp only [decodeM, unlessReserved_eq_ok, Bool.and_eq_true, zeroField_iff, bits]
  exact ⟨by omega, by congr 1 <;> omega⟩

theorem decodeMOut_of_toNat {a b l : Nat} (ha : a < 2 ^ 16) (hb : b < 2 ^ 16)
    (hw : w.toNat = op + (a * 2 ^ 16 + b * 2 ^ 32 + l * 2 ^ 48)) (mk : Nat → Nat → Nat → Instr) :
    decodeMOut w mk = .ok (mk a b l) := by
  simp only [decodeMOut, unlessReserved_eq_ok, zeroField_iff, bits]
  exact ⟨by omega, by congr 1 <;> omega⟩

theorem decodeRB_of_toNat {r : Reg} {a l : Nat} (ha : a < 2 ^ 16)
    (hw : w.toNat = op + (r.val * 2 ^ 8 + a * 2 ^ 16 + l * 2 ^ 48)) (mk : Reg → Nat → Nat → Instr) :
    decodeRB w mk = .ok (mk r a l) := by
  simp only [decodeRB, unlessReserved_eq_ok, Bool.and_eq_true, zeroField_iff, bits]
  refine ⟨by omega, ?_⟩
  rw [regField_eq (r := r) (by omega)]
  congr 1 <;> omega

theorem decodeRI_of_toNat {rd rs1 : Reg} {n : Nat}
    (hw : w.toNat = op + (rd.val * 2 ^ 8 + rs1.val * 2 ^ 12 + n * 2 ^ 32)) (mk : Reg → Reg → Nat → Instr) :
    decodeRI w mk = .ok (mk rd rs1 n) := by
  simp only [decodeRI, unlessReserved_eq_ok, zeroField_iff, bits]
  refine ⟨by omega, ?_⟩
  rw [regField_eq (r := rd) (by omega), regField_eq (r := rs1) (by omega)]
  congr 1
  omega

theorem decodeR3_of_toNat {rd rs1 rs2 : Reg} (hw : w.toNat = op + (rd.val * 2 ^ 8 + rs1.val * 2 ^ 12 + rs2.val * 2 ^ 16))
    (mk : Reg → Reg → Reg → Instr) : decodeR3 w mk = .ok (mk rd rs1 rs2) := by
  simp only [decodeR3, unlessReserved_eq_ok, Bool.and_eq_true, zeroField_iff, bits]
  refine ⟨by omega, ?_⟩
  rw [regField_eq (r := rd) (by omega), regField_eq (r := rs1) (by omega), regField_eq (r := rs2) (by omega)]

theorem decodeR4_of_toNat {rd rs1 rs2 rs3 : Reg}
    (hw : w.toNat = op + (rd.val * 2 ^ 8 + rs1.val * 2 ^ 12 + rs2.val * 2 ^ 16 + rs3.val * 2 ^ 20))
    (mk : Reg → Reg → Reg → Reg → Instr) : decodeR4 w mk = .ok (mk rd rs1 rs2 rs3) := by
  simp only [decodeR4, unlessReserved_eq_ok, zeroField_iff, bits]
  refine ⟨by omega, ?_⟩
  rw [regField_eq (r := rd) (by omega), regField_eq (r := rs1) (by omega), regField_eq (r := rs2) (by omega),
    regField_eq (r := rs3) (by omega)]

theorem decodeRCmp_of_toNat {rs1 rs2 : Reg} (hw : w.toNat = op + (rs1.val * 2 ^ 12 + rs2.val * 2 ^ 16))
    (mk : Reg → Reg → Instr) : decodeRCmp w mk = .ok (mk rs1 rs2) := by
  simp only [decodeRCmp, unlessReserved_eq_ok, Bool.and_eq_true, zeroField_iff, bits]
  refine ⟨by omega, ?_⟩
  rw [regField_eq (r := rs1) (by omega), regField_eq (r := rs2) (by omega)]

end

/-- Settles O4: the opcode selects the format, and the format reads its fields back from the number of the word. -/
theorem decodeInvertsEncode : Obligations.DecodeInvertsEncode := by
  unfold Obligations.DecodeInvertsEncode
  intro i hwf
  have hw := toNat_encode hwf
  have hopcode := bits_encode_opcode i
  generalize encode i = w at hw hopcode
  unfold decode
  rw [hopcode]
  cases i with
  | nop => exact decodeN_of_toNat (opcodeOf_lt .nop) hw .nop
  | mreset => exact decodeN_of_toNat (opcodeOf_lt .mreset) hw .mreset
  | wcsr csr imm =>
    have hcsr := fits_iff.mp hwf
    have himm := imm.isLt
    simp only [opcodeOf, operandFields] at hw
    refine unlessReserved_eq_ok.mpr ⟨(zeroField_iff _ _ _).mpr ?_, ?_⟩
    · rw [bits]
      omega
    · have hcsrField : bits w 15 8 = csr := by rw [bits]; omega
      have himmField : bits w 47 16 = imm.toNat := by rw [bits]; omega
      rw [hcsrField, himmField, BitVec.ofNat_toNat, BitVec.setWidth_eq]
  | bldi rd imm =>
    have himm := fits_iff.mp hwf
    simp only [opcodeOf, operandFields] at hw
    refine unlessReserved_eq_ok.mpr ⟨(zeroField_iff _ _ _).mpr ?_, ?_⟩
    · rw [bits]
      omega
    · have himmField : bits w 63 16 = imm := by rw [bits]; omega
      rw [himmField, regField_eq (r := rd) (by omega)]
  | bmov rd rs1 =>
    simp only [opcodeOf, operandFields] at hw
    refine unlessReserved_eq_ok.mpr ⟨?_, ?_⟩
    · simp only [Bool.and_eq_true, zeroField_iff, bits]
      omega
    · rw [regField_eq (r := rd) (by omega),
        regField_eq (r := rs1) (by omega)]
  | minit a l | maad a l =>
    simp only [Instr.wellFormed, Bool.and_eq_true, fits_iff] at hwf
    obtain ⟨ha, -⟩ := hwf
    exact decodeM_of_toNat (opcodeOf_lt _) ha hw _
  | mproc a b l | mfinal a b l =>
    simp only [Instr.wellFormed, Bool.and_eq_true, fits_iff] at hwf
    obtain ⟨⟨ha, hb⟩, -⟩ := hwf
    exact decodeMOut_of_toNat (opcodeOf_lt _) ha hb hw _
  | bld r a l | bst r a l =>
    simp only [Instr.wellFormed, Bool.and_eq_true, fits_iff] at hwf
    obtain ⟨ha, -⟩ := hwf
    exact decodeRB_of_toNat (opcodeOf_lt _) ha hw _
  | bgetw | bsetw | bshl | bshr => exact decodeRI_of_toNat (opcodeOf_lt _) hw _
  | badd | bsub | bmulw | bmul | band | bor | bxor | bgcd | binv => exact decodeR3_of_toNat (opcodeOf_lt _) hw _
  | bdiv | bpow => exact decodeR4_of_toNat (opcodeOf_lt _) hw _
  | bcmp | bsprp => exact decodeRCmp_of_toNat (opcodeOf_lt _) hw _

end Sys2Proof.Proofs
end

section
/-! The decoder against the opcode table: a word decodes exactly when it matches its row (30_encoding.md R85). -/

namespace Sys2Proof.Proofs

open Sys2Proof.Machine Sys2Proof.Laws

/-! ## Fields as masks -/

/-- The mask of the field `w[hi:lo]`. -/
def fieldMask (hi lo : Nat) : Word64 := BitVec.ofNat 64 ((2 ^ (hi + 1 - lo) - 1) * 2 ^ lo)

/-- Cutting a number to a field keeps the field's digits in their place. -/
theorem and_mask_eq (x lo k : Nat) : x &&& (2 ^ k - 1) * 2 ^ lo = x / 2 ^ lo % 2 ^ k * 2 ^ lo := by
  refine Nat.eq_of_testBit_eq fun j => ?_
  simp only [Nat.testBit_and, Nat.testBit_mul_two_pow, Nat.testBit_two_pow_sub_one, Nat.testBit_mod_two_pow,
    Nat.testBit_div_two_pow]
  by_cases hj : lo ≤ j
  · simp [hj, Bool.and_comm]
  · simp [hj]

theorem toNat_and_fieldMask (w : Word64) {hi lo : Nat} (hlo : lo ≤ hi) (hhi : hi < 64) :
    (w &&& fieldMask hi lo).toNat = bits w hi lo * 2 ^ lo := by
  have hfits : (2 ^ (hi + 1 - lo) - 1) * 2 ^ lo < 2 ^ 64 := by
    calc (2 ^ (hi + 1 - lo) - 1) * 2 ^ lo < 2 ^ (hi + 1 - lo) * 2 ^ lo :=
          Nat.mul_lt_mul_of_pos_right (Nat.sub_lt (Nat.two_pow_pos _) one_pos) (Nat.two_pow_pos _)
      _ = 2 ^ (hi + 1) := by rw [← Nat.pow_add]; congr 1; omega
      _ ≤ 2 ^ 64 := Nat.pow_le_pow_right (by decide) (by omega)
  rw [BitVec.toNat_and, fieldMask, BitVec.toNat_ofNat, Nat.mod_eq_of_lt hfits, and_mask_eq, bits]

theorem zeroField_iff_and_fieldMask (w : Word64) {hi lo : Nat} (hlo : lo ≤ hi) (hhi : hi < 64) :
    zeroField w hi lo = true ↔ w &&& fieldMask hi lo = 0 := by
  rw [zeroField_iff, ← BitVec.toNat_inj, toNat_and_fieldMask w hlo hhi]
  exact (Nat.mul_eq_zero.trans (or_iff_left (Nat.two_pow_pos lo).ne')).symm

theorem and_or_eq_zero_iff (w m n : Word64) : w &&& (m ||| n) = 0 ↔ w &&& m = 0 ∧ w &&& n = 0 := by
  rw [BitVec.and_or_distrib_left]
  exact BitVec.or_eq_zero_iff

/-- The opcode of a word is what its lowest byte holds. -/
theorem and_opcodeMask_eq (w : Word64) : w &&& fieldMask 7 0 = BitVec.ofNat 64 (bits w 7 0) := by
  have hbyte : bits w 7 0 < 2 ^ 8 := Nat.mod_lt _ (by decide)
  apply BitVec.eq_of_toNat_eq
  rw [toNat_and_fieldMask w (by decide) (by decide), BitVec.toNat_ofNat]
  omega

/-! ## The row of a command -/

/-- The fields that the format of a command reserves (30_encoding.md R75 to R82). -/
def reservedMask : Instr → Word64
  | .nop | .mreset => fieldMask 63 8
  | .wcsr _ _ => fieldMask 63 48
  | .minit _ _ | .maad _ _ => fieldMask 15 8 ||| fieldMask 47 32
  | .mproc _ _ _ | .mfinal _ _ _ => fieldMask 15 8
  | .bldi _ _ => fieldMask 15 12
  | .bld _ _ _ | .bst _ _ _ => fieldMask 15 12 ||| fieldMask 47 32
  | .bmov _ _ => fieldMask 63 24 ||| fieldMask 23 20 ||| fieldMask 19 16
  | .bgetw _ _ _ | .bsetw _ _ _ | .bshl _ _ _ | .bshr _ _ _ => fieldMask 31 16
  | .badd _ _ _ | .bsub _ _ _ | .bmulw _ _ _ | .bmul _ _ _ | .band _ _ _ | .bor _ _ _ | .bxor _ _ _ | .bgcd _ _ _
  | .binv _ _ _ => fieldMask 63 24 ||| fieldMask 23 20
  | .bdiv _ _ _ _ | .bpow _ _ _ _ => fieldMask 63 24
  | .bcmp _ _ | .bsprp _ _ => fieldMask 63 24 ||| fieldMask 23 20 ||| fieldMask 11 8

/-- The row of the opcode table for a command: its opcode, and a mask of the opcode and the reserved fields. -/
def rowOf (i : Instr) : Word64 × Word64 := (BitVec.ofNat 64 (opcodeOf i), fieldMask 7 0 ||| reservedMask i)

theorem rowOf_mem_opcodeRows (i : Instr) : rowOf i ∈ opcodeRows := by
  cases i <;> simp only [rowOf, opcodeOf, reservedMask] <;> decide

/-- A word with the opcode of a command matches the command's row exactly when the reserved fields are 0. -/
theorem and_rowOf_eq_iff {w : Word64} {i : Instr} (hopcode : opcodeOf i = bits w 7 0) :
    w &&& (rowOf i).2 = (rowOf i).1 ↔ w &&& reservedMask i = 0 := by
  have hdisjoint : BitVec.ofNat 64 (opcodeOf i) &&& reservedMask i = 0 := by
    cases i <;> simp only [opcodeOf, reservedMask] <;> decide
  rw [rowOf]
  constructor
  · intro h
    have habsorb : (fieldMask 7 0 ||| reservedMask i) &&& reservedMask i = reservedMask i := by
      ext k hk
      simpa using Or.inr
    calc w &&& reservedMask i = w &&& (fieldMask 7 0 ||| reservedMask i) &&& reservedMask i := by
          rw [BitVec.and_assoc, habsorb]
      _ = 0 := by rw [h, hdisjoint]
  · intro h
    rw [BitVec.and_or_distrib_left, h, and_opcodeMask_eq, hopcode]
    exact BitVec.or_zero

/-! ## Reading a word by its row -/

/-- The reading `d` of a word by a format: some well-formed command of the word's opcode, subject to the check of the
command's reserved fields, and no bit of the word is dropped when they are 0. -/
def ReadsRow (w : Word64) (d : Except FaultCode Instr) : Prop :=
  ∃ reservedZero i, d = unlessReserved reservedZero i ∧ opcodeOf i = bits w 7 0 ∧ i.wellFormed = true
    ∧ (reservedZero = true ↔ w &&& reservedMask i = 0) ∧ (reservedZero = true → w.toNat = opcodeOf i + operandFields i)

theorem fits_bits (w : Word64) {hi lo width : Nat} (h : hi + 1 - lo ≤ width) : fits width (bits w hi lo) = true :=
  fits_iff.mpr ((bits_lt w hi lo).trans_le (Nat.pow_le_pow_right (by decide) h))

section
variable {w : Word64} {op : Nat} (hop : bits w 7 0 = op)
include hop

theorem readsRow_decodeN {i : Instr}
    (h : opcodeOf i = op ∧ operandFields i = 0 ∧ reservedMask i = fieldMask 63 8 ∧ i.wellFormed = true) :
    ReadsRow w (decodeN w i) := by
  obtain ⟨hcode, hfields, hmask, hwf⟩ := h
  refine ⟨_, _, rfl, hcode.trans hop.symm, hwf, ?_, ?_⟩
  · rw [hmask, zeroField_iff_and_fieldMask _ (by decide) (by decide)]
  · rw [zeroField_iff, hcode, hfields, ← hop]
    simp only [bits]
    omega

theorem readsRow_wcsr (hop1 : op = 1) : ReadsRow w
    (unlessReserved (zeroField w 63 48) (.wcsr (bits w 15 8) (BitVec.ofNat 32 (bits w 47 16)))) := by
  refine ⟨_, _, rfl, (hop.trans hop1).symm, fits_bits w (by decide), ?_, ?_⟩
  · rw [zeroField_iff_and_fieldMask _ (by decide) (by decide), reservedMask]
  · rw [zeroField_iff, operandFields, toNat_ofNat_bits w (by decide), opcodeOf, ← hop1, ← hop]
    simp only [bits]
    omega

theorem readsRow_bldi (hop20 : op = 0x20) :
    ReadsRow w (unlessReserved (zeroField w 15 12) (.bldi (regField w 8) (bits w 63 16))) := by
  refine ⟨_, _, rfl, (hop.trans hop20).symm, fits_bits w (by decide), ?_, ?_⟩
  · rw [zeroField_iff_and_fieldMask _ (by decide) (by decide), reservedMask]
  · rw [zeroField_iff, operandFields, opcodeOf, ← hop20, ← hop]
    simp only [bits, regField]
    omega

theorem readsRow_bmov (hop23 : op = 0x23) : ReadsRow w
    (unlessReserved (zeroField w 63 24 && zeroField w 23 20 && zeroField w 19 16)
      (.bmov (regField w 8) (regField w 12))) := by
  refine ⟨_, _, rfl, (hop.trans hop23).symm, rfl, ?_, ?_⟩
  · rw [reservedMask, and_or_eq_zero_iff, and_or_eq_zero_iff, Bool.and_eq_true, Bool.and_eq_true]
    iterate 3 rw [zeroField_iff_and_fieldMask _ (by decide) (by decide)]
  · rw [operandFields, opcodeOf, ← hop23, ← hop]
    simp only [Bool.and_eq_true, zeroField_iff, bits, regField]
    omega

theorem readsRow_decodeM {mk : Nat → Nat → Instr}
    (h : ∀ a l, opcodeOf (mk a l) = op ∧ operandFields (mk a l) = a * 2 ^ 16 + l * 2 ^ 48
      ∧ reservedMask (mk a l) = (fieldMask 15 8 ||| fieldMask 47 32) ∧ (mk a l).wellFormed = (fits 16 a && fits 16 l)) :
    ReadsRow w (decodeM w mk) := by
  obtain ⟨hcode, hfields, hmask, hwf⟩ := h (bits w 31 16) (bits w 63 48)
  refine ⟨_, _, rfl, hcode.trans hop.symm, ?_, ?_, ?_⟩
  · rw [hwf, fits_bits w (by decide), fits_bits w (by decide)]
    rfl
  · rw [hmask, and_or_eq_zero_iff, Bool.and_eq_true]
    iterate 2 rw [zeroField_iff_and_fieldMask _ (by decide) (by decide)]
  · rw [hcode, hfields, ← hop]
    simp only [Bool.and_eq_true, zeroField_iff, bits]
    omega

theorem readsRow_decodeMOut {mk : Nat → Nat → Nat → Instr}
    (h : ∀ a b l, opcodeOf (mk a b l) = op ∧ operandFields (mk a b l) = a * 2 ^ 16 + b * 2 ^ 32 + l * 2 ^ 48
      ∧ reservedMask (mk a b l) = fieldMask 15 8 ∧ (mk a b l).wellFormed = (fits 16 a && fits 16 b && fits 16 l)) :
    ReadsRow w (decodeMOut w mk) := by
  obtain ⟨hcode, hfields, hmask, hwf⟩ := h (bits w 31 16) (bits w 47 32) (bits w 63 48)
  refine ⟨_, _, rfl, hcode.trans hop.symm, ?_, ?_, ?_⟩
  · rw [hwf, fits_bits w (by decide), fits_bits w (by decide), fits_bits w (by decide)]
    rfl
  · rw [hmask, zeroField_iff_and_fieldMask _ (by decide) (by decide)]
  · rw [hcode, hfields, ← hop]
    simp only [zeroField_iff, bits]
    omega

theorem readsRow_decodeRB {mk : Reg → Nat → Nat → Instr}
    (h : ∀ r a l, opcodeOf (mk r a l) = op ∧ operandFields (mk r a l) = r.val * 2 ^ 8 + a * 2 ^ 16 + l * 2 ^ 48
      ∧ reservedMask (mk r a l) = (fieldMask 15 12 ||| fieldMask 47 32)
      ∧ (mk r a l).wellFormed = (fits 16 a && fits 16 l)) :
    ReadsRow w (decodeRB w mk) := by
  obtain ⟨hcode, hfields, hmask, hwf⟩ := h (regField w 8) (bits w 31 16) (bits w 63 48)
  refine ⟨_, _, rfl, hcode.trans hop.symm, ?_, ?_, ?_⟩
  · rw [hwf, fits_bits w (by decide), fits_bits w (by decide)]
    rfl
  · rw [hmask, and_or_eq_zero_iff, Bool.and_eq_true]
    iterate 2 rw [zeroField_iff_and_fieldMask _ (by decide) (by decide)]
  · rw [hcode, hfields, ← hop]
    simp only [Bool.and_eq_true, zeroField_iff, bits, regField]
    omega

theorem readsRow_decodeRI {mk : Reg → Reg → Nat → Instr}
    (h : ∀ rd rs1 n, opcodeOf (mk rd rs1 n) = op
      ∧ operandFields (mk rd rs1 n) = rd.val * 2 ^ 8 + rs1.val * 2 ^ 12 + n * 2 ^ 32
      ∧ reservedMask (mk rd rs1 n) = fieldMask 31 16 ∧ (mk rd rs1 n).wellFormed = fits 32 n) :
    ReadsRow w (decodeRI w mk) := by
  obtain ⟨hcode, hfields, hmask, hwf⟩ := h (regField w 8) (regField w 12) (bits w 63 32)
  refine ⟨_, _, rfl, hcode.trans hop.symm, ?_, ?_, ?_⟩
  · rw [hwf, fits_bits w (by decide)]
  · rw [hmask, zeroField_iff_and_fieldMask _ (by decide) (by decide)]
  · rw [hcode, hfields, ← hop]
    simp only [zeroField_iff, bits, regField]
    omega

theorem readsRow_decodeR3 {mk : Reg → Reg → Reg → Instr}
    (h : ∀ rd rs1 rs2, opcodeOf (mk rd rs1 rs2) = op
      ∧ operandFields (mk rd rs1 rs2) = rd.val * 2 ^ 8 + rs1.val * 2 ^ 12 + rs2.val * 2 ^ 16
      ∧ reservedMask (mk rd rs1 rs2) = (fieldMask 63 24 ||| fieldMask 23 20) ∧ (mk rd rs1 rs2).wellFormed = true) :
    ReadsRow w (decodeR3 w mk) := by
  obtain ⟨hcode, hfields, hmask, hwf⟩ := h (regField w 8) (regField w 12) (regField w 16)
  refine ⟨_, _, rfl, hcode.trans hop.symm, hwf, ?_, ?_⟩
  · rw [hmask, and_or_eq_zero_iff, Bool.and_eq_true]
    iterate 2 rw [zeroField_iff_and_fieldMask _ (by decide) (by decide)]
  · rw [hcode, hfields, ← hop]
    simp only [Bool.and_eq_true, zeroField_iff, bits, regField]
    omega

theorem readsRow_decodeR4 {mk : Reg → Reg → Reg → Reg → Instr}
    (h : ∀ rd rs1 rs2 rs3, opcodeOf (mk rd rs1 rs2 rs3) = op
      ∧ operandFields (mk rd rs1 rs2 rs3) = rd.val * 2 ^ 8 + rs1.val * 2 ^ 12 + rs2.val * 2 ^ 16 + rs3.val * 2 ^ 20
      ∧ reservedMask (mk rd rs1 rs2 rs3) = fieldMask 63 24 ∧ (mk rd rs1 rs2 rs3).wellFormed = true) :
    ReadsRow w (decodeR4 w mk) := by
  obtain ⟨hcode, hfields, hmask, hwf⟩ := h (regField w 8) (regField w 12) (regField w 16) (regField w 20)
  refine ⟨_, _, rfl, hcode.trans hop.symm, hwf, ?_, ?_⟩
  · rw [hmask, zeroField_iff_and_fieldMask _ (by decide) (by decide)]
  · rw [hcode, hfields, ← hop]
    simp only [zeroField_iff, bits, regField]
    omega

theorem readsRow_decodeRCmp {mk : Reg → Reg → Instr}
    (h : ∀ rs1 rs2, opcodeOf (mk rs1 rs2) = op ∧ operandFields (mk rs1 rs2) = rs1.val * 2 ^ 12 + rs2.val * 2 ^ 16
      ∧ reservedMask (mk rs1 rs2) = (fieldMask 63 24 ||| fieldMask 23 20 ||| fieldMask 11 8)
      ∧ (mk rs1 rs2).wellFormed = true) :
    ReadsRow w (decodeRCmp w mk) := by
  obtain ⟨hcode, hfields, hmask, hwf⟩ := h (regField w 12) (regField w 16)
  refine ⟨_, _, rfl, hcode.trans hop.symm, hwf, ?_, ?_⟩
  · rw [hmask, and_or_eq_zero_iff, and_or_eq_zero_iff, Bool.and_eq_true, Bool.and_eq_true]
    iterate 3 rw [zeroField_iff_and_fieldMask _ (by decide) (by decide)]
  · rw [hcode, hfields, ← hop]
    simp only [Bool.and_eq_true, zeroField_iff, bits, regField]
    omega

end

/-- The decoder's cases: by the opcode, the format of one row, or ILLEGAL_OPCODE (R85). -/
theorem readsRow_or_illegal (w : Word64) :
    ReadsRow w (decode w) ∨ (UnallocatedOpcode (bits w 7 0) ∧ decode w = .error .illegalOpcode) := by
  by_cases hunallocated : UnallocatedOpcode (bits w 7 0)
  · exact .inr ⟨hunallocated, (decode_eq_illegalOpcode_iff w).mpr hunallocated⟩
  refine .inl ?_
  unfold decode
  split
  · next hop => exact readsRow_decodeN hop ⟨rfl, rfl, rfl, rfl⟩
  · next hop => exact readsRow_wcsr hop rfl
  · next hop => exact readsRow_decodeM hop fun _ _ => ⟨rfl, rfl, rfl, rfl⟩
  · next hop => exact readsRow_decodeM hop fun _ _ => ⟨rfl, rfl, rfl, rfl⟩
  · next hop => exact readsRow_decodeMOut hop fun _ _ _ => ⟨rfl, rfl, rfl, rfl⟩
  · next hop => exact readsRow_decodeMOut hop fun _ _ _ => ⟨rfl, rfl, rfl, rfl⟩
  · next hop => exact readsRow_decodeN hop ⟨rfl, rfl, rfl, rfl⟩
  · next hop => exact readsRow_bldi hop rfl
  · next hop => exact readsRow_decodeRB hop fun _ _ _ => ⟨rfl, rfl, rfl, rfl⟩
  · next hop => exact readsRow_decodeRB hop fun _ _ _ => ⟨rfl, rfl, rfl, rfl⟩
  · next hop => exact readsRow_bmov hop rfl
  iterate 2 · next hop => exact readsRow_decodeRI hop fun _ _ _ => ⟨rfl, rfl, rfl, rfl⟩
  iterate 4 · next hop => exact readsRow_decodeR3 hop fun _ _ _ => ⟨rfl, rfl, rfl, rfl⟩
  · next hop => exact readsRow_decodeR4 hop fun _ _ _ _ => ⟨rfl, rfl, rfl, rfl⟩
  iterate 2 · next hop => exact readsRow_decodeRI hop fun _ _ _ => ⟨rfl, rfl, rfl, rfl⟩
  iterate 3 · next hop => exact readsRow_decodeR3 hop fun _ _ _ => ⟨rfl, rfl, rfl, rfl⟩
  · next hop => exact readsRow_decodeRCmp hop fun _ _ => ⟨rfl, rfl, rfl, rfl⟩
  · next hop => exact readsRow_decodeR4 hop fun _ _ _ _ => ⟨rfl, rfl, rfl, rfl⟩
  iterate 2 · next hop => exact readsRow_decodeR3 hop fun _ _ _ => ⟨rfl, rfl, rfl, rfl⟩
  · next hop => exact readsRow_decodeRCmp hop fun _ _ => ⟨rfl, rfl, rfl, rfl⟩
  · refine absurd ?_ hunallocated
    unfold UnallocatedOpcode
    simp only [imp_false] at *
    omega

/-- What the decoder answers, in terms of the opcode table: the command of the word's row if the word matches it, and
RESERVED_FIELD if only its opcode does. -/
theorem decode_eq_by_row (w : Word64) :
    (∃ i, opcodeOf i = bits w 7 0 ∧ i.wellFormed = true
        ∧ ((w &&& (rowOf i).2 = (rowOf i).1 ∧ decode w = .ok i ∧ encode i = w)
          ∨ (w &&& (rowOf i).2 ≠ (rowOf i).1 ∧ decode w = .error .reservedField)))
      ∨ (UnallocatedOpcode (bits w 7 0) ∧ decode w = .error .illegalOpcode) := by
  refine (readsRow_or_illegal w).imp_left ?_
  rintro ⟨reservedZero, i, hdecode, hopcode, hwf, hreserved, hnumber⟩
  rw [← and_rowOf_eq_iff hopcode] at hreserved
  refine ⟨i, hopcode, hwf, ?_⟩
  cases reservedZero with
  | true =>
    refine .inl ⟨hreserved.mp rfl, hdecode, ?_⟩
    rw [encode, ← hnumber rfl, BitVec.ofNat_toNat, BitVec.setWidth_eq]
  | false =>
    refine .inr ⟨fun hrow => ?_, hdecode⟩
    nomatch hreserved.mpr hrow

/-! ## The opcode table -/

/-- The opcodes of the rows, in the order of the table. -/
theorem opcodeRows_map_opcode : opcodeRows.map (fun p => bits p.1 7 0) =
    [0x00, 0x01, 0x10, 0x11, 0x12, 0x13, 0x14, 0x20, 0x21, 0x22, 0x23, 0x24, 0x25, 0x30, 0x31, 0x32, 0x33, 0x34, 0x35, 0x36,
      0x37, 0x38, 0x39, 0x3A, 0x40, 0x41, 0x42, 0x43] := by
  simp [opcodeRows, bits]

theorem nodup_opcodes : (opcodeRows.map fun p => bits p.1 7 0).Nodup := by
  rw [opcodeRows_map_opcode]
  decide

/-- No two rows have the same opcode. -/
theorem opcodeRows_pairwise : opcodeRows.Pairwise fun p q => bits p.1 7 0 ≠ bits q.1 7 0 :=
  List.pairwise_map.mp nodup_opcodes

theorem eq_of_opcode {p q : Word64 × Word64} (hp : p ∈ opcodeRows) (hq : q ∈ opcodeRows) (h : bits p.1 7 0 = bits q.1 7 0) :
    p = q :=
  List.inj_on_of_nodup_map nodup_opcodes hp hq h

/-- Every row is the row of an allocated opcode. -/
theorem not_unallocatedOpcode_row {p : Word64 × Word64} (hp : p ∈ opcodeRows) : ¬UnallocatedOpcode (bits p.1 7 0) := by
  have hmem : bits p.1 7 0 ∈ opcodeRows.map fun p => bits p.1 7 0 := List.mem_map_of_mem hp
  rw [opcodeRows_map_opcode] at hmem
  unfold UnallocatedOpcode
  simp only [List.mem_cons, List.not_mem_nil, or_false] at hmem
  omega

/-- Every mask covers the opcode. -/
theorem opcodeRows_mask : ∀ p ∈ opcodeRows, p.2 &&& fieldMask 7 0 = fieldMask 7 0 := by
  simp [opcodeRows, fieldMask]

theorem opcode_of_matches {w : Word64} {p : Word64 × Word64} (hp : p ∈ opcodeRows) (h : w &&& p.2 = p.1) :
    bits p.1 7 0 = bits w 7 0 := by
  have hbits (v : Word64) : bits v 7 0 = (v &&& fieldMask 7 0).toNat := by
    rw [toNat_and_fieldMask v (by decide) (by decide), pow_zero, mul_one]
  rw [hbits, hbits, ← h, BitVec.and_assoc, opcodeRows_mask p hp]

theorem opcode_rowOf (i : Instr) : bits (rowOf i).1 7 0 = opcodeOf i := by
  have hlt := opcodeOf_lt i
  simp only [rowOf, bits, BitVec.toNat_ofNat]
  omega

/-- A row of the table with the opcode of a command is that command's row. -/
theorem eq_rowOf_of_opcode {p : Word64 × Word64} (hp : p ∈ opcodeRows) {i : Instr} (h : bits p.1 7 0 = opcodeOf i) :
    p = rowOf i :=
  eq_of_opcode hp (rowOf_mem_opcodeRows i) (h.trans (opcode_rowOf i).symm)

theorem encode_of_decode {w : Word64} {i : Instr} (h : decode w = .ok i) : encode i = w ∧ i.wellFormed = true := by
  obtain ⟨j, -, hwf, ⟨-, hdecode, hencode⟩ | ⟨-, hdecode⟩⟩ | ⟨-, hdecode⟩ := decode_eq_by_row w <;>
    rw [hdecode] at h <;> cases h
  exact ⟨hencode, hwf⟩

/-- A word decodes exactly when it matches a row. -/
theorem exists_decode_iff (w : Word64) : (∃ i, decode w = .ok i) ↔ ∃ p ∈ opcodeRows, w &&& p.2 = p.1 := by
  obtain ⟨i, hopcode, -, ⟨hrow, hdecode, -⟩ | ⟨hrow, hdecode⟩⟩ | ⟨hunallocated, hdecode⟩ := decode_eq_by_row w
  · exact iff_of_true ⟨i, hdecode⟩ ⟨rowOf i, rowOf_mem_opcodeRows i, hrow⟩
  · refine iff_of_false (fun ⟨j, hj⟩ => ?_) (fun ⟨p, hp, hmatch⟩ => hrow ?_)
    · rw [hdecode] at hj
      nomatch hj
    · rwa [← eq_rowOf_of_opcode hp ((opcode_of_matches hp hmatch).trans hopcode.symm)]
  · refine iff_of_false (fun ⟨j, hj⟩ => ?_) (fun ⟨p, hp, hmatch⟩ => not_unallocatedOpcode_row hp ?_)
    · rw [hdecode] at hj
      nomatch hj
    · rwa [opcode_of_matches hp hmatch]

/-- RESERVED_FIELD is the fault of a word that has the opcode of a row and does not match it. -/
theorem decode_eq_reservedField_iff (w : Word64) : decode w = .error .reservedField ↔
    (∃ p ∈ opcodeRows, bits p.1 7 0 = bits w 7 0) ∧ ∀ p ∈ opcodeRows, w &&& p.2 ≠ p.1 := by
  have hmatches := exists_decode_iff w
  obtain ⟨i, hopcode, -, ⟨hrow, hdecode, -⟩ | ⟨hrow, hdecode⟩⟩ | ⟨hunallocated, hdecode⟩ := decode_eq_by_row w
  · rw [hdecode]
    exact iff_of_false nofun fun ⟨_, hnone⟩ => hnone _ (rowOf_mem_opcodeRows i) hrow
  · refine iff_of_true hdecode ⟨⟨rowOf i, rowOf_mem_opcodeRows i, (opcode_rowOf i).trans hopcode⟩, fun p hp hmatch => ?_⟩
    obtain ⟨j, hj⟩ := hmatches.mpr ⟨p, hp, hmatch⟩
    rw [hdecode] at hj
    nomatch hj
  · rw [hdecode]
    refine iff_of_false nofun fun ⟨⟨p, hp, hopcode⟩, _⟩ => not_unallocatedOpcode_row hp ?_
    rwa [hopcode]

/-- Settles O3, from the decoder's answer by rows and the distinct opcodes of the rows. -/
theorem decodeMatchesOpcodeTable : Obligations.DecodeMatchesOpcodeTable := by
  unfold Obligations.DecodeMatchesOpcodeTable
  refine ⟨exists_decode_iff, ?_, fun _ _ => encode_of_decode, decode_eq_reservedField_iff⟩
  refine opcodeRows_pairwise.imp_of_mem fun {p q} hp hq hne w => ?_
  rintro ⟨hmatchP, hmatchQ⟩
  exact hne ((opcode_of_matches hp hmatchP).trans (opcode_of_matches hq hmatchQ).symm)

end Sys2Proof.Proofs
end

section
/-! The results of the BAU: data movement and arithmetic (41_biguint_data.md, 42_biguint_arith.md). -/

namespace Sys2Proof.Proofs

open Sys2Proof.Machine Sys2Proof.Laws

/-! ## The ends of a BAU command -/

/-- A command that ends in `t`, its word still at the head of the queue, is counted (40_control.md R90). -/
theorem finish_ok_eq_completed {t : State} {w : Word64} {rest : List Word64} (hqueue : t.queue = w :: rest) :
    finish (.ok t) = .next (t.completed rest) := by
  rw [finish_ok, commit_eq_completed hqueue]

section
variable {s : State} {w : Word64} {rest : List Word64} (hqueue : s.queue = w :: rest)

include hqueue in
theorem finish_putReg (r : Reg) (v : Nat) : finish (.ok (s.putReg r v)) = .next ((s.withResult r v).completed rest) :=
  finish_ok_eq_completed (t := s.withResult r v) hqueue

include hqueue in
theorem finish_setFlags (f : Flags) : finish (.ok (s.setFlags f)) = .next ({ s with flags := f }.completed rest) :=
  finish_ok_eq_completed (t := { s with flags := f }) hqueue

include hqueue in
theorem finish_putBounded_of_lt (r : Reg) {v : Nat} (h : v < Config.CAPACITY) :
    finish (s.putBounded r v) = .next ((s.withResult r v).completed rest) := by
  rw [State.putBounded, if_neg (Nat.not_le.mpr h), finish_putReg hqueue]

include hqueue in
theorem finish_putBounded_of_le (r : Reg) {v : Nat} (h : Config.CAPACITY ≤ v) :
    finish (s.putBounded r v) = .next (s.faulted w .capacity) := by
  rw [State.putBounded, if_pos h, finish_raise_eq_faulted _ hqueue]

/-- The next valid source is read. -/
theorem source_eq {r : Reg} {v : Nat} (h : s.holds r v) (k : Nat → Result) : s.source r k = k v :=
  source_of_holds s r v k h

theorem source_source_eq {r q : Reg} {u v : Nat} (hr : s.holds r u) (hq : s.holds q v) (k : Nat → Nat → Result) :
    (s.source r fun a => s.source q fun b => k a b) = k u v := by
  rw [source_eq hr, source_eq hq]

end

/-! ## BLD and BST -/

/-- A number is `be(s)` when its bytes, the most significant first, are those of `s` (00_scope.md R17). -/
theorem eq_be_of_bytes {s : Bytes} {v : Nat} (hfit : v < 256 ^ s.length)
    (hbytes : ∀ (k : Nat) (hk : k < s.length), v / 256 ^ (s.length - 1 - k) % 256 = s[k].toNat) : v = be s := by
  have hstring : beBytes s.length v = s := by
    refine List.ext_getElem (length_beBytes _ _) fun k _ hk => BitVec.eq_of_toNat_eq ?_
    rw [getElem_beBytes, BitVec.toNat_ofNat, Nat.pow_mul]
    exact hbytes k hk
  rw [← hstring, be_beBytes, Nat.mod_eq_of_lt hfit]

theorem eq_be_readBytes {m : Memory} {a l v : Nat} (hfit : v < 256 ^ l)
    (hbytes : ∀ k < l, v / 256 ^ (l - 1 - k) % 256 = (m.read (a + k)).toNat) : be (m.readBytes a l) = v := by
  refine (eq_be_of_bytes (by rwa [length_readBytes]) fun k hk => ?_).symm
  rw [getElem_readBytes, length_readBytes]
  exact hbytes k (by rwa [length_readBytes] at hk)

theorem exec_bld (r : Reg) (a l : Nat) (s : State) : exec (.bld r a l) s =
    finish (if inBounds a l then s.putBounded r (be (s.buf.readBytes a l)) else .raise .bufBounds s) := rfl

/-- Settles O20: inside BUF the bytes of the region are those of the number, and the register takes it if it fits. -/
theorem bldLoadsBigEndian : Obligations.BldLoadsBigEndian := by
  unfold Obligations.BldLoadsBigEndian
  intro s w rest r a l v hqueue
  rw [exec_bld]
  refine ⟨fun hout => ?_, fun hin hfit hbytes => ?_⟩
  · rw [if_neg (by rw [inBounds_iff]; omega), finish_raise_eq_faulted _ hqueue]
  · rw [if_pos ((inBounds_iff a l).mpr hin), eq_be_readBytes hfit hbytes]
    exact ⟨finish_putBounded_of_lt hqueue r, finish_putBounded_of_le hqueue r⟩

/-- The bytes of a number stored in BUF, and the bytes around them (20_memory.md R55). -/
theorem read_writeBytes_beBytes {m : Memory} (hwf : m.wf) {a l : Nat} (v : Nat) (hin : a + l ≤ Config.BUF_BYTES) :
    (∀ k < l, ((m.writeBytes a (beBytes l v)).read (a + k)).toNat = v / 256 ^ (l - 1 - k) % 256)
      ∧ ∀ x, (x < a ∨ a + l ≤ x) → (m.writeBytes a (beBytes l v)).read x = m.read x := by
  have hlength := length_beBytes l v
  refine ⟨fun k hk => ?_, fun x hx => read_writeBytes_other _ _ _ _ hwf (by rwa [hlength]) (by rwa [hlength])⟩
  rw [read_writeBytes_same _ _ _ _ hwf (by rwa [hlength]) (by rwa [hlength]), getElem_beBytes, BitVec.toNat_ofNat,
    Nat.pow_mul]

theorem not_inBounds_iff (a n : Nat) : (!inBounds a n) = true ↔ Config.BUF_BYTES < a + n := by
  rw [Bool.not_eq_true', ← Bool.not_eq_true, inBounds_iff, Nat.not_le]

theorem exec_bst (r : Reg) (a l : Nat) (s : State) : exec (.bst r a l) s =
    finish (s.source r fun v =>
      match firstFault [(!inBounds a l, .bufBounds), (decide (2 ^ (8 * l) ≤ v), .operandRange)] with
      | some f => .raise f s
      | none => .ok (s.setBuf (s.buf.writeBytes a (beBytes l v)))) := rfl

/-- Settles O21, from the two checks of BST and the laws of BUF for a string written. -/
theorem bstStoresBigEndian : Obligations.BstStoresBigEndian := by
  unfold Obligations.BstStoresBigEndian
  intro s w rest r a l v hqueue hwf hr
  have hbase : 256 ^ l = 2 ^ (8 * l) := (Nat.pow_mul 2 8 l).symm
  rw [exec_bst, source_eq hr, hbase]
  refine ⟨fun hout => ?_, fun hin hlarge => ?_, fun hin hfit => ?_⟩
  · rw [firstFault_cons_of_holds ((not_inBounds_iff a l).mpr hout)]
    exact finish_raise_eq_faulted _ hqueue
  · rw [firstFault_cons_of_passes (by simpa using hin), firstFault_cons_of_holds (decide_eq_true hlarge)]
    exact finish_raise_eq_faulted _ hqueue
  · rw [firstFault_cons_of_passes (by simpa using hin), firstFault_cons_of_passes (by simpa using hfit)]
    exact ⟨_, finish_ok_eq_completed (t := { s with buf := s.buf.writeBytes a (beBytes l v) }) hqueue,
      read_writeBytes_beBytes hwf v hin⟩

/-! ## BLDI, BMOV, BGETW and BSETW -/

theorem exec_bldi (rd : Reg) (imm : Nat) (s : State) : exec (.bldi rd imm) s = finish (.ok (s.putReg rd imm)) := rfl
theorem exec_bmov (rd rs1 : Reg) (s : State) :
    exec (.bmov rd rs1) s = finish (s.source rs1 fun v => .ok (s.putReg rd v)) := rfl
theorem exec_bgetw (rd rs1 : Reg) (idx : Nat) (s : State) :
    exec (.bgetw rd rs1 idx) s = finish (s.source rs1 fun v => .ok (s.putReg rd (wordAt v idx))) := rfl
theorem exec_bsetw (rd rs1 : Reg) (idx : Nat) (s : State) : exec (.bsetw rd rs1 idx) s =
    finish (s.source rs1 fun v => s.source rd fun old =>
      if 2 ^ Config.W ≤ v then .raise .operandRange s
      else if v ≠ 0 ∧ Config.MAXW ≤ idx then .raise .capacity s
      else s.putBounded rd (setWordAt old idx v)) := rfl

/-- A nonzero word at or beyond MAXW makes a value that does not fit, whatever the other words hold. -/
theorem capacity_le_setWordAt {old idx v : Nat} (hv : v ≠ 0) (hidx : Config.MAXW ≤ idx) :
    Config.CAPACITY ≤ setWordAt old idx v := by
  calc Config.CAPACITY = 2 ^ (Config.W * Config.MAXW) := rfl
    _ ≤ 2 ^ (Config.W * idx) := Nat.pow_le_pow_right (by decide) (Nat.mul_le_mul_left _ hidx)
    _ ≤ v * 2 ^ (Config.W * idx) := Nat.le_mul_of_pos_left _ (Nat.pos_of_ne_zero hv)
    _ ≤ setWordAt old idx v := by rw [setWordAt_eq]; exact Nat.le_add_left _ _

section
variable {s : State} {w : Word64} {rest : List Word64} {rd rs1 : Reg} {idx v old : Nat} (hqueue : s.queue = w :: rest)
  (hv : s.holds rs1 v) (hold : s.holds rd old)
include hqueue hv hold

theorem exec_bsetw_of_large (hlarge : 2 ^ Config.W ≤ v) : exec (.bsetw rd rs1 idx) s = .next (s.faulted w .operandRange) := by
  rw [exec_bsetw, source_source_eq hv hold, if_pos hlarge, finish_raise_eq_faulted _ hqueue]

theorem exec_bsetw_of_fits (hword : v < 2 ^ Config.W) (hfit : setWordAt old idx v < Config.CAPACITY) :
    exec (.bsetw rd rs1 idx) s = .next ((s.withResult rd (setWordAt old idx v)).completed rest) := by
  have hplace : ¬(v ≠ 0 ∧ Config.MAXW ≤ idx) := fun ⟨hne, hidx⟩ => Nat.not_le.mpr hfit (capacity_le_setWordAt hne hidx)
  rw [exec_bsetw, source_source_eq hv hold, if_neg (Nat.not_le.mpr hword), if_neg hplace,
    finish_putBounded_of_lt hqueue rd hfit]

theorem exec_bsetw_of_capacity (hword : v < 2 ^ Config.W) (hlarge : Config.CAPACITY ≤ setWordAt old idx v) :
    exec (.bsetw rd rs1 idx) s = .next (s.faulted w .capacity) := by
  rw [exec_bsetw, source_source_eq hv hold, if_neg (Nat.not_le.mpr hword)]
  split
  · exact finish_raise_eq_faulted _ hqueue
  · exact finish_putBounded_of_le hqueue rd hlarge

end

/-- Settles O22: three moves that always fit, and BSETW by the size of the word and of the result. -/
theorem movesAndWordAccess : Obligations.MovesAndWordAccess := by
  unfold Obligations.MovesAndWordAccess
  intro s w rest rd rs1 imm idx v old hqueue
  refine ⟨?_, fun hv => ⟨?_, ?_, fun hold => ⟨fun hlarge => exec_bsetw_of_large hqueue hv hold hlarge, ?_⟩⟩⟩
  · rw [exec_bldi, finish_putReg hqueue]
  · rw [exec_bmov, source_eq hv, finish_putReg hqueue]
  · rw [exec_bgetw, source_eq hv, finish_putReg hqueue, wordAt_eq]
    rfl
  · rintro hword r rfl
    have hresult : old - old / 2 ^ (64 * idx) % 2 ^ 64 * 2 ^ (64 * idx) + v * 2 ^ (64 * idx) = setWordAt old idx v :=
      (setWordAt_eq old idx v).symm
    rw [hresult]
    exact ⟨exec_bsetw_of_fits hqueue hv hold hword, exec_bsetw_of_capacity hqueue hv hold hword⟩

/-! ## Addition, subtraction and multiplication -/

theorem exec_badd (rd rs1 rs2 : Reg) (s : State) :
    exec (.badd rd rs1 rs2) s = finish (s.source rs1 fun a => s.source rs2 fun b => s.putBounded rd (a + b)) := rfl
theorem exec_bsub (rd rs1 rs2 : Reg) (s : State) : exec (.bsub rd rs1 rs2) s =
    finish (s.source rs1 fun a => s.source rs2 fun b =>
      if a < b then .raise .underflow s else .ok (s.putReg rd (a - b))) := rfl
theorem exec_bmulw (rd rs1 rs2 : Reg) (s : State) : exec (.bmulw rd rs1 rs2) s =
    finish (s.source rs1 fun a => s.source rs2 fun m =>
      if 2 ^ Config.W ≤ m then .raise .operandRange s else s.putBounded rd (a * m)) := rfl
theorem exec_bmul (rd rs1 rs2 : Reg) (s : State) :
    exec (.bmul rd rs1 rs2) s = finish (s.source rs1 fun a => s.source rs2 fun b => s.putBounded rd (a * b)) := rfl

/-- Settles O23: each command's own check, then the check of the capacity. -/
theorem addSubtractMultiply : Obligations.AddSubtractMultiply := by
  unfold Obligations.AddSubtractMultiply
  intro s w rest rd rs1 rs2 a b hqueue ha hb
  rw [exec_badd, exec_bsub, exec_bmulw, exec_bmul, source_source_eq ha hb, source_source_eq ha hb, source_source_eq ha hb,
    source_source_eq ha hb]
  refine ⟨finish_putBounded_of_lt hqueue rd, finish_putBounded_of_le hqueue rd, fun hle => ?_, fun hlt => ?_,
    fun hword hfit => ?_, fun hword hlarge => ?_, fun hlarge => ?_, finish_putBounded_of_lt hqueue rd,
    finish_putBounded_of_le hqueue rd⟩
  · rw [if_neg (Nat.not_lt.mpr hle), finish_putReg hqueue]
  · rw [if_pos hlt, finish_raise_eq_faulted _ hqueue]
  · rw [if_neg (Nat.not_le.mpr (show b < 2 ^ Config.W from hword)), finish_putBounded_of_lt hqueue rd hfit]
  · rw [if_neg (Nat.not_le.mpr (show b < 2 ^ Config.W from hword)), finish_putBounded_of_le hqueue rd hlarge]
  · rw [if_pos (show 2 ^ Config.W ≤ b from hlarge), finish_raise_eq_faulted _ hqueue]

/-! ## Division -/

theorem exec_bdiv (rd rs1 rs2 rs3 : Reg) (s : State) : exec (.bdiv rd rs1 rs2 rs3) s =
    finish (s.source rs1 fun a => s.source rs2 fun b =>
      if b = 0 then .raise .divZero s else .ok ((s.writeReg rd (a / b)).putReg rs3 (a % b))) := rfl

/-- Settles O24: the division law fixes the quotient and the remainder. -/
theorem bdivQuotientAndRemainder : Obligations.BdivQuotientAndRemainder := by
  unfold Obligations.BdivQuotientAndRemainder
  intro s w rest rd rs1 rs2 rs3 a b q r hqueue ha hb
  rw [exec_bdiv, source_source_eq ha hb]
  refine ⟨fun hzero => ?_, fun hlaw hlt => ?_⟩
  · rw [if_pos hzero, finish_raise_eq_faulted _ hqueue]
  · have hdivision : a / b = q ∧ a % b = r :=
      (Nat.div_mod_unique (Nat.zero_lt_of_lt hlt)).mpr ⟨by rw [← hlaw]; ring, hlt⟩
    obtain ⟨hquotient, hremainder⟩ := hdivision
    rw [if_neg (Nat.ne_zero_of_lt hlt), hquotient, hremainder]
    exact finish_ok_eq_completed (t := (s.withReg rd q).withResult rs3 r) hqueue

/-! ## Shifts and logic -/

theorem exec_bshl (rd rs1 : Reg) (n : Nat) (s : State) : exec (.bshl rd rs1 n) s =
    finish (s.source rs1 fun a =>
      if a ≠ 0 ∧ Config.W * Config.MAXW < bitlen a + n then .raise .capacity s else .ok (s.putReg rd (a <<< n))) := rfl
theorem exec_bshr (rd rs1 : Reg) (n : Nat) (s : State) :
    exec (.bshr rd rs1 n) s = finish (s.source rs1 fun a => .ok (s.putReg rd (a >>> n))) := rfl
theorem exec_band (rd rs1 rs2 : Reg) (s : State) : exec (.band rd rs1 rs2) s =
    finish (s.source rs1 fun a => s.source rs2 fun b => .ok (s.putReg rd (a &&& b))) := rfl
theorem exec_bor (rd rs1 rs2 : Reg) (s : State) : exec (.bor rd rs1 rs2) s =
    finish (s.source rs1 fun a => s.source rs2 fun b => .ok (s.putReg rd (a ||| b))) := rfl
theorem exec_bxor (rd rs1 rs2 : Reg) (s : State) : exec (.bxor rd rs1 rs2) s =
    finish (s.source rs1 fun a => s.source rs2 fun b => .ok (s.putReg rd (a ^^^ b))) := rfl

/-- A number shifted left by n outgrows c bits exactly when it is not 0 and its own bits and n exceed c. -/
theorem bitlen_add_lt_iff (a n c : Nat) : (a ≠ 0 ∧ c < bitlen a + n) ↔ 2 ^ c ≤ a * 2 ^ n := by
  by_cases hn : n ≤ c
  · have hsplit : 2 ^ c = 2 ^ (c - n) * 2 ^ n := by rw [← Nat.pow_add, Nat.sub_add_cancel hn]
    rw [hsplit, Nat.mul_le_mul_right_iff (Nat.two_pow_pos n), ← Nat.not_lt, ← bitlen_le_iff]
    refine ⟨fun ⟨_, hbits⟩ => by omega, fun hbits => ⟨?_, by omega⟩⟩
    rintro rfl
    exact hbits (Nat.zero_le _)
  · refine ⟨fun ⟨hne, _⟩ => ?_, fun hle => ⟨?_, by omega⟩⟩
    · exact (Nat.pow_le_pow_right (by decide) (by omega)).trans (Nat.le_mul_of_pos_left _ (Nat.pos_of_ne_zero hne))
    · rintro rfl
      exact absurd hle (by simp)

/-- Settles O25: BSHL's count of bits is the check of the capacity, and the logic works bit by bit. -/
theorem shiftsAndLogic : Obligations.ShiftsAndLogic := by
  unfold Obligations.ShiftsAndLogic
  intro s w rest rd rs1 rs2 a b n hqueue ha
  have hshl : (a ≠ 0 ∧ Config.W * Config.MAXW < bitlen a + n) ↔ Config.CAPACITY ≤ a * 2 ^ n := bitlen_add_lt_iff a n _
  rw [exec_bshl, exec_bshr, source_eq ha, source_eq ha, Nat.shiftLeft_eq, Nat.shiftRight_eq_div_pow]
  refine ⟨fun hfit => ?_, fun hlarge => ?_, finish_putReg hqueue rd _, fun hb => ⟨⟨a &&& b, fun k => Nat.testBit_and .., ?_⟩,
    ⟨a ||| b, fun k => Nat.testBit_or .., ?_⟩, ⟨a ^^^ b, fun k => Nat.testBit_xor .., ?_⟩⟩⟩
  · rw [if_neg (by rw [hshl]; exact Nat.not_le.mpr hfit), finish_putReg hqueue]
  · rw [if_pos (hshl.mpr hlarge), finish_raise_eq_faulted _ hqueue]
  · rw [exec_band, source_source_eq ha hb, finish_putReg hqueue]
  · rw [exec_bor, source_source_eq ha hb, finish_putReg hqueue]
  · rw [exec_bxor, source_source_eq ha hb, finish_putReg hqueue]

/-! ## Comparison -/

theorem exec_bcmp (rs1 rs2 : Reg) (s : State) : exec (.bcmp rs1 rs2) s =
    finish (s.source rs1 fun a => s.source rs2 fun b => .ok (s.setFlags (s.flags.withCompare a b))) := rfl

/-- Settles O26: exactly one of the three comparisons holds. -/
theorem bcmpSetsOneFlag : Obligations.BcmpSetsOneFlag := by
  unfold Obligations.BcmpSetsOneFlag
  intro s w rest rs1 rs2 a b hqueue ha hb
  rw [exec_bcmp, source_source_eq ha hb, finish_setFlags hqueue, Flags.withCompare]
  refine ⟨fun hlt => ?_, fun heq => ?_, fun hgt => ?_⟩
  · rw [decide_eq_true hlt, decide_eq_false hlt.ne, decide_eq_false hlt.asymm]
  · rw [decide_eq_true heq, decide_eq_false heq.not_lt, decide_eq_false heq.not_gt]
  · rw [decide_eq_true hgt, decide_eq_false hgt.ne', decide_eq_false hgt.asymm]

/-! ## Powers, common divisors and inverses -/

theorem exec_bpow (rd rs1 rs2 rs3 : Reg) (s : State) : exec (.bpow rd rs1 rs2 rs3) s =
    finish (s.source rs1 fun b => s.source rs2 fun e => s.source rs3 fun m =>
      if m = 0 then .raise .divZero s else .ok (s.putReg rd (powMod b e m))) := rfl
theorem exec_bgcd (rd rs1 rs2 : Reg) (s : State) : exec (.bgcd rd rs1 rs2) s =
    finish (s.source rs1 fun a => s.source rs2 fun b => .ok (s.putReg rd (Nat.gcd a b))) := rfl

/-- Settles O27, from the exact value of the power and the defining property of the gcd. -/
theorem powerAndGreatestDivisor : Obligations.PowerAndGreatestDivisor := by
  unfold Obligations.PowerAndGreatestDivisor
  intro s w rest rd rs1 rs2 rs3 a b m hqueue ha hb
  rw [exec_bpow, source_source_eq ha hb]
  refine ⟨fun hm hne => ?_, fun hzero => ?_, Nat.gcd a b, Nat.gcd_dvd_left a b, Nat.gcd_dvd_right a b,
    fun d => Nat.dvd_gcd, ?_⟩
  · rw [source_eq hm, if_neg hne, finish_putReg hqueue, powMod_eq _ _ _ hne]
  · rw [source_eq hzero, if_pos rfl, finish_raise_eq_faulted _ hqueue]
  · rw [exec_bgcd, source_source_eq ha hb, finish_putReg hqueue]

theorem exec_binv (rd rs1 rs2 : Reg) (s : State) : exec (.binv rd rs1 rs2) s =
    finish (s.source rs1 fun a => s.source rs2 fun m =>
      if m ≤ 1 then .raise .operandRange s
      else if Nat.gcd a m ≠ 1 then .ok (s.setFlags (s.flags.withNoInverse true))
      else .ok ((s.setFlags (s.flags.withNoInverse false)).putReg rd (invMod a m))) := rfl

/-- Settles O28: an inverse is never 0, so Z is clear. -/
theorem binvInverse : Obligations.BinvInverse := by
  unfold Obligations.BinvInverse
  intro s w rest rd rs1 rs2 a m hqueue ha hm
  rw [exec_binv, source_source_eq ha hm]
  refine ⟨fun hsmall => ?_, fun hlarge hcommon => ?_, fun hlarge hcoprime => ?_⟩
  · rw [if_pos hsmall, finish_raise_eq_faulted _ hqueue]
  · rw [if_neg (Nat.not_le.mpr hlarge), if_pos hcommon, finish_setFlags hqueue, Flags.withNoInverse]
  · obtain ⟨hlt, hinverse⟩ := invMod_spec a m hlarge hcoprime
    have hne : invMod a m ≠ 0 := by
      intro hzero
      rw [hzero, Nat.mul_zero, Nat.zero_mod] at hinverse
      omega
    have hresult : (s.setFlags (s.flags.withNoInverse false)).putReg rd (invMod a m)
        = { s.withReg rd (invMod a m) with flags := { s.flags with z := false, nr := false } } := by
      rw [State.putReg, Flags.withZ, decide_eq_false hne]
      rfl
    rw [if_neg (Nat.not_le.mpr hlarge), if_neg (not_not.mpr hcoprime), hresult]
    exact ⟨_, hlt, hinverse, finish_ok_eq_completed hqueue⟩

/-! ## The strong probable-prime test -/

theorem exec_bsprp (rs1 rs2 : Reg) (s : State) : exec (.bsprp rs1 rs2) s =
    finish (s.source rs1 fun n => s.source rs2 fun a =>
      if n ≤ 2 ∨ n % 2 = 0 ∨ a ≤ 1 then .raise .operandRange s
      else .ok (s.setFlags (s.flags.withProbablePrime (strongProbablePrime n a)))) := rfl

/-- The trailing zero bits of an odd number times `2^k` are k. -/
theorem ntz_odd_mul_two_pow {d : Nat} (hodd : d % 2 = 1) (k : Nat) : ntz (d * 2 ^ k) = k := by
  have hpos : 0 < d * 2 ^ k := Nat.mul_pos (by omega) (Nat.two_pow_pos k)
  obtain ⟨hdvd, hnot⟩ := pow_ntz_dvd_and_not_succ hpos
  refine Nat.le_antisymm (Nat.not_lt.mp fun hlt => ?_) (Nat.not_lt.mp fun hlt => ?_)
  · have htwo : 2 ^ k * 2 ∣ 2 ^ k * d := by
      rw [← pow_succ, Nat.mul_comm _ d]
      exact (pow_dvd_pow 2 hlt).trans hdvd
    have : 2 ∣ d := Nat.dvd_of_mul_dvd_mul_left (Nat.two_pow_pos k) htwo
    omega
  · exact hnot ((pow_dvd_pow 2 hlt).trans (Dvd.intro_left d rfl))

/-- The squarings that the test looks at are the powers to 2, 4, 8 and so on. -/
theorem squaresHit_iff (n left x : Nat) :
    squaresHit n left (x % n) = true ↔ ∃ j < left, x ^ 2 ^ (j + 1) % n = n - 1 := by
  induction left generalizing x with
  | zero => simp [squaresHit]
  | succ left ih =>
    have hsquare : x % n * (x % n) % n = x ^ 2 % n := by rw [← Nat.mul_mod, pow_two]
    have hpow (j : Nat) : (x ^ 2) ^ 2 ^ (j + 1) = x ^ 2 ^ (j + 1 + 1) := by rw [← pow_mul, ← pow_succ']
    rw [squaresHit, hsquare, Bool.or_eq_true, beq_iff_eq, ih, Nat.exists_lt_succ_left]
    simp only [hpow, zero_add, pow_one]

/-- The test is R120's, for the odd part d of `n − 1` and the power of 2 beside it. -/
theorem strongProbablePrime_iff {n a d k : Nat} (hn : 2 < n) (hodd : n % 2 = 1) (hsplit : n - 1 = d * 2 ^ k)
    (hd : d % 2 = 1) :
    strongProbablePrime n a = true ↔ a ^ d % n = 1 ∨ ∃ j < k, a ^ (d * 2 ^ j) % n = n - 1 := by
  obtain ⟨k, rfl⟩ : ∃ j, k = j + 1 := by
    refine Nat.exists_eq_succ_of_ne_zero ?_
    rintro rfl
    omega
  have hntz : ntz (n - 1) = k + 1 := by rw [hsplit, ntz_odd_mul_two_pow hd]
  have hquotient : (n - 1) / 2 ^ (k + 1) = d := by rw [hsplit, Nat.mul_div_cancel _ (Nat.two_pow_pos _)]
  have hpow (j : Nat) : (a ^ d) ^ 2 ^ (j + 1) = a ^ (d * 2 ^ (j + 1)) := by rw [← pow_mul]
  rw [strongProbablePrime]
  simp only [hntz, hquotient, powMod_eq a d n (by omega), Nat.add_sub_cancel, Bool.or_eq_true, beq_iff_eq, squaresHit_iff,
    hpow, or_assoc]
  rw [Nat.exists_lt_succ_left, pow_zero, mul_one]

/-- Settles O29: the fault conditions are R120's, and the test is the strong test. -/
theorem bsprpStrongTest : Obligations.BsprpStrongTest := by
  unfold Obligations.BsprpStrongTest
  intro s w rest rs1 rs2 n a d k hqueue hn ha
  rw [exec_bsprp, source_source_eq hn ha]
  refine ⟨fun hillegal => ?_, fun hlarge hodd hbase hsplit hd => ⟨_, strongProbablePrime_iff hlarge hodd hsplit hd, ?_⟩⟩
  · rw [if_pos hillegal, finish_raise_eq_faulted _ hqueue]
  · rw [if_neg (by omega), finish_setFlags hqueue, Flags.withProbablePrime]

end Sys2Proof.Proofs
end

section
/-! What a BAU command can do, said once: raise a fault of its list in the state it started in, or write its destinations, its
flags and, for BST, BUF (41_biguint_data.md R96 to R99). -/

namespace Sys2Proof.Proofs

open Sys2Proof.Machine Sys2Proof.Laws

/-- What the BAU command `i` may write over `s`: registers `R`, flags `F` and BUF `M`. -/
structure BauEffect (i : Instr) (s : State) (R : Vector BigReg 16) (F : Flags) (M : Memory) : Prop where
  regs : ∀ r : Reg, r ∉ destRegs i → R[r.val] = s.regs[r.val]
  bounded : i.wellFormed = true → RegsBounded s → ∀ r : Reg, R[r.val].value < Config.CAPACITY
  buf : (∀ r a l, i ≠ .bst r a l) → M = s.buf
  wf : s.buf.wf → M.wf
  z : destRegs i = [] → F.z = s.flags.z
  compare : (∀ rs1 rs2, i ≠ .bcmp rs1 rs2) → F.lt = s.flags.lt ∧ F.eq = s.flags.eq ∧ F.gt = s.flags.gt
  nr : (∀ rd rs1 rs2, i ≠ .binv rd rs1 rs2) → F.nr = s.flags.nr
  pp : (∀ rs1 rs2, i ≠ .bsprp rs1 rs2) → F.pp = s.flags.pp

/-- The results a BAU command can have. -/
inductive BauResult (i : Instr) (s : State) : Result → Prop where
  | raise {c : FaultCode} (hfault : c ∈ faultsOf i) : BauResult i s (.raise c s)
  | ok {R : Vector BigReg 16} {F : Flags} {M : Memory} (heffect : BauEffect i s R F M) :
    BauResult i s (.ok { s with regs := R, flags := F, buf := M })

/-! ## How the results are put together -/

section
variable {i : Instr} {s : State}

/-- A value that a valid register holds is below the capacity. -/
theorem lt_capacity_of_holds (hbounded : RegsBounded s) {r : Reg} {v : Nat} (h : s.holds r v) : v < Config.CAPACITY := by
  have hr := hbounded r
  rwa [h] at hr

theorem regsBounded_set {R : Vector BigReg 16} (hR : ∀ r : Reg, R[r.val].value < Config.CAPACITY) (rd : Reg) {v : Nat}
    (hv : v < Config.CAPACITY) (r : Reg) :
    (R.set rd.val { valid := true, value := v } rd.isLt)[r.val].value < Config.CAPACITY := by
  rw [Vector.getElem_set]
  split
  · exact hv
  · exact hR r

theorem getElem_set_of_ne (R : Vector BigReg 16) {rd r : Reg} (b : BigReg) (h : r ≠ rd) :
    (R.set rd.val b rd.isLt)[r.val] = R[r.val] :=
  Vector.getElem_set_ne _ _ fun hval => h (Fin.ext hval.symm)

/-- A source is read, or raises REG_UNINIT. -/
theorem BauResult.source {r : Reg} {k : Nat → Result} (huninit : .regUninit ∈ faultsOf i)
    (hk : ∀ v, s.holds r v → BauResult i s (k v)) : BauResult i s (s.source r k) := by
  obtain ⟨v, hread, hsource⟩ | ⟨-, hraise⟩ := source_cases s r k
  · rw [hsource]
    exact hk v ((readReg_eq_some s r v).mp hread)
  · rw [hraise]
    exact .raise huninit

/-- The one destination is written, with Z. -/
theorem BauResult.putReg {rd : Reg} {v : Nat} (hdest : destRegs i = [rd])
    (hv : i.wellFormed = true → RegsBounded s → v < Config.CAPACITY) : BauResult i s (.ok (s.putReg rd v)) := by
  refine .ok (R := s.regs.set rd.val { valid := true, value := v } rd.isLt) (F := s.flags.withZ v) (M := s.buf)
    { regs := fun r hr => ?_, bounded := fun hwf hbounded => regsBounded_set hbounded rd (hv hwf hbounded)
      buf := fun _ => rfl, wf := id, z := fun h => ?_, compare := fun _ => ⟨rfl, rfl, rfl⟩, nr := fun _ => rfl
      pp := fun _ => rfl }
  · rw [hdest, List.mem_singleton] at hr
    exact getElem_set_of_ne _ _ hr
  · rw [hdest] at h
    nomatch h

theorem BauResult.putBounded {rd : Reg} {v : Nat} (hdest : destRegs i = [rd]) (hcapacity : .capacity ∈ faultsOf i) :
    BauResult i s (s.putBounded rd v) := by
  obtain ⟨hlt, hok⟩ | ⟨-, hraise⟩ := putBounded_cases s rd v
  · rw [hok]
    exact .putReg hdest fun _ _ => hlt
  · rw [hraise]
    exact .raise hcapacity

/-- Only flags are written: `F` changes no flag but those of the command's own rule. -/
theorem BauResult.setFlags {F : Flags} (hz : F.z = s.flags.z)
    (hcompare : (∀ rs1 rs2, i ≠ .bcmp rs1 rs2) → F.lt = s.flags.lt ∧ F.eq = s.flags.eq ∧ F.gt = s.flags.gt)
    (hnr : (∀ rd rs1 rs2, i ≠ .binv rd rs1 rs2) → F.nr = s.flags.nr)
    (hpp : (∀ rs1 rs2, i ≠ .bsprp rs1 rs2) → F.pp = s.flags.pp) : BauResult i s (.ok (s.setFlags F)) :=
  .ok (R := s.regs) (M := s.buf)
    { regs := fun _ _ => rfl, bounded := fun _ hbounded => hbounded, buf := fun _ => rfl, wf := id, z := fun _ => hz
      compare := hcompare, nr := hnr, pp := hpp }

/-- A check of the command's own decides between a fault and the rest. -/
theorem BauResult.unless {p : Prop} [Decidable p] {c : FaultCode} {result : Result} (hfault : c ∈ faultsOf i)
    (hresult : ¬p → BauResult i s result) : BauResult i s (if p then .raise c s else result) := by
  split
  · exact .raise hfault
  · next hp => exact hresult hp

end

/-! ## The values written are below the capacity -/

theorem word_lt_capacity {v : Nat} (h : v < 2 ^ Config.W) : v < Config.CAPACITY :=
  h.trans_le (Nat.pow_le_pow_right (by decide) (by decide))

theorem gcd_lt_of_lt {a b n : Nat} (ha : a < n) (hb : b < n) : Nat.gcd a b < n := by
  obtain rfl | hpos := Nat.eq_zero_or_pos a
  · rwa [Nat.gcd_zero_left]
  · exact (Nat.gcd_le_left b hpos).trans_lt ha

/-! ## Command by command -/

section
variable (s : State)

theorem bauResult_bldi (rd : Reg) (imm : Nat) : BauResult (.bldi rd imm) s (.ok (s.putReg rd imm)) :=
  .putReg rfl fun hwf _ => word_lt_capacity ((fits_iff.mp hwf).trans_le (by decide))

theorem bauResult_bld (r : Reg) (a l : Nat) : BauResult (.bld r a l) s
    (if inBounds a l then s.putBounded r (be (s.buf.readBytes a l)) else .raise .bufBounds s) := by
  split
  · exact .putBounded rfl (by simp [faultsOf])
  · exact .raise (by simp [faultsOf])

theorem bauResult_bst (r : Reg) (a l : Nat) : BauResult (.bst r a l) s (s.source r fun v =>
    match firstFault [(!inBounds a l, .bufBounds), (decide (2 ^ (8 * l) ≤ v), .operandRange)] with
    | some f => .raise f s
    | none => .ok (s.setBuf (s.buf.writeBytes a (beBytes l v)))) := by
  refine .source (by simp [faultsOf]) fun v _ => ?_
  split
  · next f hfault =>
    have hmem := firstFault_mem _ f hfault
    refine .raise ?_
    simp only [List.mem_cons, Prod.mk.injEq, List.not_mem_nil, or_false] at hmem
    obtain ⟨-, rfl⟩ | ⟨-, rfl⟩ := hmem <;> simp [faultsOf]
  · next hpass =>
    rw [firstFault_eq_none] at hpass
    have hin : a + l ≤ Config.BUF_BYTES := by simpa using hpass _ (List.mem_cons_self ..)
    exact .ok (R := s.regs) (F := s.flags)
      { regs := fun _ _ => rfl, bounded := fun _ hbounded => hbounded, buf := fun h => absurd rfl (h r a l)
        wf := fun hwf => writeBytes_wf _ _ _ hwf (by rwa [length_beBytes]), z := fun _ => rfl
        compare := fun _ => ⟨rfl, rfl, rfl⟩, nr := fun _ => rfl, pp := fun _ => rfl }

theorem bauResult_bsetw (rd rs1 : Reg) (idx : Nat) : BauResult (.bsetw rd rs1 idx) s
    (s.source rs1 fun v => s.source rd fun old =>
      if 2 ^ Config.W ≤ v then .raise .operandRange s
      else if v ≠ 0 ∧ Config.MAXW ≤ idx then .raise .capacity s
      else s.putBounded rd (setWordAt old idx v)) :=
  .source (by simp [faultsOf]) fun _ _ => .source (by simp [faultsOf]) fun _ _ =>
    .unless (by simp [faultsOf]) fun _ => .unless (by simp [faultsOf]) fun _ => .putBounded rfl (by simp [faultsOf])

theorem bauResult_bdiv (rd rs1 rs2 rs3 : Reg) : BauResult (.bdiv rd rs1 rs2 rs3) s
    (s.source rs1 fun a => s.source rs2 fun b =>
      if b = 0 then .raise .divZero s else .ok ((s.writeReg rd (a / b)).putReg rs3 (a % b))) := by
  refine .source (by simp [faultsOf]) fun a ha => .source (by simp [faultsOf]) fun b hb =>
    .unless (by simp [faultsOf]) fun hne => ?_
  refine .ok (R := ((s.writeReg rd (a / b)).putReg rs3 (a % b)).regs) (F := s.flags.withZ (a % b)) (M := s.buf)
    { regs := fun r hr => ?_, bounded := fun _ hbounded => ?_, buf := fun _ => rfl, wf := id, z := fun h => nomatch h
      compare := fun _ => ⟨rfl, rfl, rfl⟩, nr := fun _ => rfl, pp := fun _ => rfl }
  · simp only [destRegs, List.mem_cons, List.not_mem_nil, or_false, not_or] at hr
    obtain ⟨hrd, hrs3⟩ := hr
    exact (getElem_set_of_ne _ _ hrs3).trans (getElem_set_of_ne _ _ hrd)
  · have hquotient := (Nat.div_le_self a b).trans_lt (lt_capacity_of_holds hbounded ha)
    have hremainder := (Nat.mod_lt a (Nat.pos_of_ne_zero hne)).trans (lt_capacity_of_holds hbounded hb)
    exact regsBounded_set (regsBounded_set hbounded rd hquotient) rs3 hremainder

theorem bauResult_bshl (rd rs1 : Reg) (n : Nat) : BauResult (.bshl rd rs1 n) s (s.source rs1 fun a =>
    if a ≠ 0 ∧ Config.W * Config.MAXW < bitlen a + n then .raise .capacity s else .ok (s.putReg rd (a <<< n))) := by
  refine .source (by simp [faultsOf]) fun a _ => .unless (by simp [faultsOf]) fun hfit => .putReg rfl fun _ _ => ?_
  rw [bitlen_add_lt_iff, Nat.not_le] at hfit
  rwa [Nat.shiftLeft_eq]

theorem bauResult_bpow (rd rs1 rs2 rs3 : Reg) : BauResult (.bpow rd rs1 rs2 rs3) s
    (s.source rs1 fun b => s.source rs2 fun e => s.source rs3 fun m =>
      if m = 0 then .raise .divZero s else .ok (s.putReg rd (powMod b e m))) := by
  refine .source (by simp [faultsOf]) fun b _ => .source (by simp [faultsOf]) fun e _ =>
    .source (by simp [faultsOf]) fun m hm => .unless (by simp [faultsOf]) fun hne => .putReg rfl fun _ hbounded => ?_
  rw [powMod_eq b e m hne]
  exact (Nat.mod_lt _ (Nat.pos_of_ne_zero hne)).trans (lt_capacity_of_holds hbounded hm)

theorem bauResult_binv (rd rs1 rs2 : Reg) : BauResult (.binv rd rs1 rs2) s
    (s.source rs1 fun a => s.source rs2 fun m =>
      if m ≤ 1 then .raise .operandRange s
      else if Nat.gcd a m ≠ 1 then .ok (s.setFlags (s.flags.withNoInverse true))
      else .ok ((s.setFlags (s.flags.withNoInverse false)).putReg rd (invMod a m))) := by
  refine .source (by simp [faultsOf]) fun a _ => .source (by simp [faultsOf]) fun m hm =>
    .unless (by simp [faultsOf]) fun hlarge => ?_
  split
  · exact .setFlags rfl (fun _ => ⟨rfl, rfl, rfl⟩) (fun h => absurd rfl (h rd rs1 rs2)) (fun _ => rfl)
  · next hcoprime =>
    obtain ⟨hlt, -⟩ := invMod_spec a m (Nat.not_le.mp hlarge) (not_not.mp hcoprime)
    refine .ok (R := s.regs.set rd.val { valid := true, value := invMod a m } rd.isLt)
      (F := (s.flags.withNoInverse false).withZ (invMod a m)) (M := s.buf)
      { regs := fun r hr => getElem_set_of_ne _ _ (List.mem_singleton.not.mp hr)
        bounded := fun _ hbounded => regsBounded_set hbounded rd (hlt.trans (lt_capacity_of_holds hbounded hm))
        buf := fun _ => rfl, wf := id, z := fun h => nomatch h
        compare := fun _ => ⟨rfl, rfl, rfl⟩
        nr := fun h => absurd rfl (h rd rs1 rs2), pp := fun _ => rfl }

end

/-- Every BAU command ends in one of the results above. -/
theorem exec_bau_cases {i : Instr} (hbau : isBau i = true) (s : State) :
    ∃ result, exec i s = finish result ∧ BauResult i s result := by
  cases i with
  | nop | wcsr | minit | maad | mproc | mfinal | mreset => nomatch hbau
  | bldi rd imm => exact ⟨_, exec_bldi rd imm s, bauResult_bldi s rd imm⟩
  | bld r a l => exact ⟨_, exec_bld r a l s, bauResult_bld s r a l⟩
  | bst r a l => exact ⟨_, exec_bst r a l s, bauResult_bst s r a l⟩
  | bmov rd rs1 =>
    exact ⟨_, exec_bmov rd rs1 s, .source (by simp [faultsOf]) fun v hv =>
      .putReg rfl fun _ hbounded => lt_capacity_of_holds hbounded hv⟩
  | bgetw rd rs1 idx =>
    exact ⟨_, exec_bgetw rd rs1 idx s, .source (by simp [faultsOf]) fun v _ =>
      .putReg rfl fun _ _ => word_lt_capacity (Nat.mod_lt _ (Nat.two_pow_pos _))⟩
  | bsetw rd rs1 idx => exact ⟨_, exec_bsetw rd rs1 idx s, bauResult_bsetw s rd rs1 idx⟩
  | badd rd rs1 rs2 =>
    exact ⟨_, exec_badd rd rs1 rs2 s, .source (by simp [faultsOf]) fun _ _ => .source (by simp [faultsOf]) fun _ _ =>
      .putBounded rfl (by simp [faultsOf])⟩
  | bsub rd rs1 rs2 =>
    exact ⟨_, exec_bsub rd rs1 rs2 s, .source (by simp [faultsOf]) fun a ha => .source (by simp [faultsOf]) fun b _ =>
      .unless (by simp [faultsOf]) fun _ => .putReg rfl fun _ hbounded =>
        (Nat.sub_le a b).trans_lt (lt_capacity_of_holds hbounded ha)⟩
  | bmulw rd rs1 rs2 =>
    exact ⟨_, exec_bmulw rd rs1 rs2 s, .source (by simp [faultsOf]) fun _ _ => .source (by simp [faultsOf]) fun _ _ =>
      .unless (by simp [faultsOf]) fun _ => .putBounded rfl (by simp [faultsOf])⟩
  | bmul rd rs1 rs2 =>
    exact ⟨_, exec_bmul rd rs1 rs2 s, .source (by simp [faultsOf]) fun _ _ => .source (by simp [faultsOf]) fun _ _ =>
      .putBounded rfl (by simp [faultsOf])⟩
  | bdiv rd rs1 rs2 rs3 => exact ⟨_, exec_bdiv rd rs1 rs2 rs3 s, bauResult_bdiv s rd rs1 rs2 rs3⟩
  | bshl rd rs1 n => exact ⟨_, exec_bshl rd rs1 n s, bauResult_bshl s rd rs1 n⟩
  | bshr rd rs1 n =>
    exact ⟨_, exec_bshr rd rs1 n s, .source (by simp [faultsOf]) fun a ha => .putReg rfl fun _ hbounded =>
      (Nat.shiftRight_le a n).trans_lt (lt_capacity_of_holds hbounded ha)⟩
  | band rd rs1 rs2 =>
    exact ⟨_, exec_band rd rs1 rs2 s, .source (by simp [faultsOf]) fun a ha => .source (by simp [faultsOf]) fun b _ =>
      .putReg rfl fun _ hbounded => Nat.and_le_left.trans_lt (lt_capacity_of_holds hbounded ha)⟩
  | bor rd rs1 rs2 =>
    exact ⟨_, exec_bor rd rs1 rs2 s, .source (by simp [faultsOf]) fun a ha => .source (by simp [faultsOf]) fun b hb =>
      .putReg rfl fun _ hbounded =>
        Nat.or_lt_two_pow (lt_capacity_of_holds hbounded ha) (lt_capacity_of_holds hbounded hb)⟩
  | bxor rd rs1 rs2 =>
    exact ⟨_, exec_bxor rd rs1 rs2 s, .source (by simp [faultsOf]) fun a ha => .source (by simp [faultsOf]) fun b hb =>
      .putReg rfl fun _ hbounded =>
        Nat.xor_lt_two_pow (lt_capacity_of_holds hbounded ha) (lt_capacity_of_holds hbounded hb)⟩
  | bcmp rs1 rs2 =>
    exact ⟨_, exec_bcmp rs1 rs2 s, .source (by simp [faultsOf]) fun _ _ => .source (by simp [faultsOf]) fun _ _ =>
      .setFlags rfl (fun h => absurd rfl (h rs1 rs2)) (fun _ => rfl) (fun _ => rfl)⟩
  | bpow rd rs1 rs2 rs3 => exact ⟨_, exec_bpow rd rs1 rs2 rs3 s, bauResult_bpow s rd rs1 rs2 rs3⟩
  | bgcd rd rs1 rs2 =>
    exact ⟨_, exec_bgcd rd rs1 rs2 s, .source (by simp [faultsOf]) fun a ha => .source (by simp [faultsOf]) fun b hb =>
      .putReg rfl fun _ hbounded => gcd_lt_of_lt (lt_capacity_of_holds hbounded ha) (lt_capacity_of_holds hbounded hb)⟩
  | binv rd rs1 rs2 => exact ⟨_, exec_binv rd rs1 rs2 s, bauResult_binv s rd rs1 rs2⟩
  | bsprp rs1 rs2 =>
    exact ⟨_, exec_bsprp rs1 rs2 s, .source (by simp [faultsOf]) fun _ _ => .source (by simp [faultsOf]) fun _ _ =>
      .unless (by simp [faultsOf]) fun _ =>
        .setFlags rfl (fun _ => ⟨rfl, rfl, rfl⟩) (fun _ => rfl) (fun h => absurd rfl (h rs1 rs2))⟩

/-- Settles O14: what the command writes is its effect, and its end changes only the queue, the counts and the fault
registers. -/
theorem bauCommandFrame : Obligations.BauCommandFrame := by
  unfold Obligations.BauCommandFrame
  intro i s t hbau hexec
  obtain ⟨result, hresult, hcases⟩ := exec_bau_cases hbau s
  rw [hresult] at hexec
  cases hcases with
  | raise hfault =>
    cases hexec
    exact ⟨fun _ _ => rfl, fun _ => rfl, fun _ => rfl, fun _ => ⟨rfl, rfl, rfl⟩, fun _ => rfl, fun _ => rfl, rfl, rfl, rfl,
      rfl, rfl, rfl, rfl, rfl, rfl, rfl, rfl, rfl⟩
  | ok heffect =>
    cases hexec
    exact ⟨heffect.regs, heffect.buf, heffect.z, heffect.compare, heffect.nr, heffect.pp, rfl, rfl, rfl, rfl, rfl, rfl, rfl,
      rfl, rfl, rfl, rfl, rfl⟩

end Sys2Proof.Proofs
end

section
/-! The mode-engine commands: their checks in groups of one fault each, in order, and what each command does once its checks
pass (44_mode_session.md R129 to R132). -/

namespace Sys2Proof.Proofs

open Sys2Proof.Machine Sys2Proof.Laws

/-! ## Checks in groups -/

/-- Checks that all raise the fault `c`. -/
def checkAll (c : FaultCode) (bads : List Bool) : List (Bool × FaultCode) := bads.map fun bad => (bad, c)

theorem firstFault_checkAll_append (c : FaultCode) (bads : List Bool) (rest : List (Bool × FaultCode)) :
    firstFault (checkAll c bads ++ rest) = if bads.any id then some c else firstFault rest := by
  induction bads with
  | nil => rfl
  | cons bad bads ih =>
    cases bad with
    | true => rfl
    | false => exact ih

/-- The checks find the fault of the first of three conditions that holds (60_exceptions.md R194). -/
structure OrderedChecks (checks : List (Bool × FaultCode)) (c₁ c₂ c₃ : FaultCode) (P₁ P₂ P₃ : Prop) : Prop where
  first : P₁ → firstFault checks = some c₁
  second : ¬P₁ → P₂ → firstFault checks = some c₂
  third : ¬P₁ → ¬P₂ → P₃ → firstFault checks = some c₃
  none_iff : firstFault checks = none ↔ ¬P₁ ∧ ¬P₂ ∧ ¬P₃

theorem orderedChecks_of_groups {checks : List (Bool × FaultCode)} {c₁ c₂ c₃ : FaultCode} {g₁ g₂ g₃ : List Bool}
    {P₁ P₂ P₃ : Prop} (hchecks : checks = checkAll c₁ g₁ ++ (checkAll c₂ g₂ ++ (checkAll c₃ g₃ ++ [])))
    (h₁ : g₁.any id = true ↔ P₁) (h₂ : g₂.any id = true ↔ P₂) (h₃ : g₃.any id = true ↔ P₃) :
    OrderedChecks checks c₁ c₂ c₃ P₁ P₂ P₃ := by
  have hvalue : firstFault checks =
      if g₁.any id then some c₁ else if g₂.any id then some c₂ else if g₃.any id then some c₃ else none := by
    rw [hchecks, firstFault_checkAll_append, firstFault_checkAll_append, firstFault_checkAll_append]
    rfl
  rw [← h₁, ← h₂, ← h₃]
  refine ⟨fun hp => ?_, fun hn hp => ?_, fun hn hm hp => ?_, ?_⟩
  · rw [hvalue, if_pos hp]
  · rw [hvalue, if_neg hn, if_pos hp]
  · rw [hvalue, if_neg hn, if_neg hm, if_pos hp]
  · rw [hvalue]
    split
    · next hp => simp [hp]
    · next hn =>
      split
      · next hp => simp [hp]
      · next hm => split <;> simp_all

section
variable (C : Cipher) (a b l : Nat) (s : State)

/-! ## The checks of each command -/

/-- The checks of MINIT behind that of the configuration `c` (44_mode_session.md R129). -/
def minitChecks (c : Ctx) : List (Bool × FaultCode) :=
  [ (!nonceLegal C c.mode l, .badNonce),
    (c.mode == .ccm && decide (2 ^ (8 * (15 - l)) ≤ s.ccmMlen.toNat), .length),
    (!inBounds a l, .bufBounds) ]

theorem orderedChecks_minit (c : Ctx) : OrderedChecks (minitChecks C a l s c) .badNonce .length .bufBounds
    (nonceLegal C c.mode l = false) (c.mode = .ccm ∧ 2 ^ (8 * (15 - l)) ≤ s.ccmMlen.toNat)
    (Config.BUF_BYTES < a + l) := by
  refine orderedChecks_of_groups (g₁ := [!nonceLegal C c.mode l])
    (g₂ := [c.mode == .ccm && decide (2 ^ (8 * (15 - l)) ≤ s.ccmMlen.toNat)]) (g₃ := [!inBounds a l]) rfl ?_ ?_ ?_
  · simp
  · simp
  · rw [← not_inBounds_iff]
    simp

/-- The phases in which MAAD is refused (44_mode_session.md R130). -/
def MaadForbidden : Prop := s.phase.ph ≠ .ready ∨ s.phase.aadDone = true ∨ s.ctx.mode.isAuth = false

theorem orderedChecks_maad : OrderedChecks (maadChecks a l s) .sequence .length .bufBounds
    (MaadForbidden s) (s.ctx.mode = .ccm ∧ l ≠ s.ctx.calen) (Config.BUF_BYTES < a + l) := by
  refine orderedChecks_of_groups (g₁ := [s.phase.ph != .ready || s.phase.aadDone || !s.ctx.mode.isAuth])
    (g₂ := [s.ctx.mode == .ccm && l != s.ctx.calen]) (g₃ := [!inBounds a l]) rfl ?_ ?_ ?_
  · simp [MaadForbidden, or_assoc]
  · simp
  · rw [← not_inBounds_iff]
    simp

theorem takesNoData_iff : [!s.phase.running, aadMissing s].any id = true ↔ TakesNoData s := by
  have hrunning : s.phase.running = false ↔ s.phase.ph ≠ .ready ∧ s.phase.ph ≠ .data := by
    rw [← Bool.not_eq_true, running_iff, not_or]
  rw [TakesNoData, ← hrunning, ← aadMissing_iff]
  simp

theorem orderedChecks_mproc : OrderedChecks (mprocChecks C a b l s) .sequence .length .bufBounds
    (TakesNoData s) (MprocLengthIllegal C s l) (Config.BUF_BYTES < a + l ∨ Config.BUF_BYTES < b + l) := by
  refine orderedChecks_of_groups (g₁ := [!s.phase.running, aadMissing s])
    (g₂ := [l % segmentSize C s.ctx != 0, s.ctx.mode == .ccm && decide (s.ctx.cmlen < s.ctx.processed + l)])
    (g₃ := [!inBounds a l, !inBounds b l]) rfl (takesNoData_iff s) ?_ ?_
  · simp [MprocLengthIllegal, segmentSize]
  · rw [← not_inBounds_iff, ← not_inBounds_iff]
    simp

theorem finalDataLen_eq (c : Ctx) : finalDataLen c l = mfinalData c l := by
  simp [finalDataLen, mfinalData, and_assoc]

theorem finalPadLen_eq (c : Ctx) :
    finalPadLen C c l = if c.mode.isBlock = true ∧ c.dir = .encrypt then padLen C.bs c.pad l else 0 := by
  simp [finalPadLen]

/-- The most bytes MFINAL could write, as R132 adds them up. -/
theorem finalOutMax_eq (c : Ctx) : finalOutMax C c l = mfinalData c l
    + (if c.mode.isBlock = true ∧ c.dir = .encrypt then padLen C.bs c.pad l else 0)
    + (if c.mode.isAuth = true ∧ c.dir = .encrypt ∧ c.tagpl = .combined then c.taglen else 0) := by
  simp [finalOutMax, finalDataLen_eq, finalPadLen_eq, and_assoc]

theorem orderedChecks_mfinal : OrderedChecks (mfinalChecks C a b l s) .sequence .length .bufBounds
    (TakesNoData s) (MfinalLengthIllegal C s l) (MfinalBoundsIllegal C s a b l) := by
  refine orderedChecks_of_groups (g₁ := [!s.phase.running, aadMissing s])
    (g₂ := [s.ctx.mode.isBlock && s.ctx.dir == .encrypt && s.ctx.pad == .none && l % C.bs != 0,
      s.ctx.mode.isBlock && s.ctx.dir == .decrypt && l % C.bs != 0,
      s.ctx.mode.isBlock && s.ctx.dir == .decrypt && s.ctx.pad != .none && decide (l < C.bs),
      s.ctx.mode.isAuth && s.ctx.dir == .decrypt && s.ctx.tagpl == .combined && decide (l < s.ctx.taglen),
      s.ctx.mode == .ccm && s.ctx.processed + finalDataLen s.ctx l != s.ctx.cmlen])
    (g₃ := [!inBounds a l, !inBounds b (finalOutMax C s.ctx l),
      s.ctx.mode.isAuth && s.ctx.tagpl == .detached && !inBounds s.tagaddr.toNat s.ctx.taglen])
    rfl (takesNoData_iff s) ?_ ?_
  · simp [MfinalLengthIllegal, finalDataLen_eq, and_assoc]
  · rw [MfinalBoundsIllegal, ← finalOutMax_eq, ← not_inBounds_iff, ← not_inBounds_iff, ← not_inBounds_iff]
    simp [and_assoc]

end

/-! ## What MINIT does -/

section
variable {C : Cipher} {a b l : Nat} {s : State}

section
variable {c : Ctx} (hidle : s.phase.running = false) (hconfig : sessionConfig C s.mcfg s.ccmAlen.toNat = some c)
include hidle hconfig

theorem minit_of_fault {f : FaultCode} (hfault : firstFault (minitChecks C a l s c) = some f) :
    minit C a l s = .raise f s := by
  unfold minitChecks at hfault
  simp only [minit, hidle, hconfig, hfault, Bool.false_eq_true, if_false]

variable (hpass : firstFault (minitChecks C a l s c) = none)
include hpass

theorem minit_of_init_failed (hinit : modeInit C c (s.buf.readBytes a l) s.ccmAlen.toNat s.ccmMlen.toNat = none) :
    minit C a l s = .raise .cipherFail (s.withSession c (PhaseReg.start c .failed true) 0) := by
  unfold minitChecks at hpass
  simp only [minit, hidle, hconfig, hpass, hinit, Bool.false_eq_true, if_false]
  rfl

theorem minit_of_init {c' : Ctx}
    (hinit : modeInit C c (s.buf.readBytes a l) s.ccmAlen.toNat s.ccmMlen.toNat = some c') :
    minit C a l s = .ok (s.withSession c' (PhaseReg.start c .ready false) 0) := by
  unfold minitChecks at hpass
  simp only [minit, hidle, hconfig, hpass, hinit, Bool.false_eq_true, if_false]
  rfl

end

/-- What MINIT can do: refuse, fail in Init, or start a session. -/
theorem minit_cases (C : Cipher) (a l : Nat) (s : State) :
    (∃ f ∈ [.sequence, .badConfig, .badNonce, .length, .bufBounds], minit C a l s = .raise f s)
      ∨ ∃ c, s.phase.running = false ∧ sessionConfig C s.mcfg s.ccmAlen.toNat = some c
          ∧ firstFault (minitChecks C a l s c) = none
          ∧ (minit C a l s = .raise .cipherFail (s.withSession c (PhaseReg.start c .failed true) 0)
            ∨ ∃ c', modeInit C c (s.buf.readBytes a l) s.ccmAlen.toNat s.ccmMlen.toNat = some c'
                ∧ minit C a l s = .ok (s.withSession c' (PhaseReg.start c .ready false) 0)) := by
  cases hrunning : s.phase.running with
  | true => exact .inl ⟨.sequence, by simp, minit_of_running hrunning⟩
  | false =>
    cases hconfig : sessionConfig C s.mcfg s.ccmAlen.toNat with
    | none => exact .inl ⟨.badConfig, by simp, minit_of_config_refused hrunning hconfig⟩
    | some c =>
      cases hchecks : firstFault (minitChecks C a l s c) with
      | some f =>
        refine .inl ⟨f, ?_, minit_of_fault hrunning hconfig hchecks⟩
        have hlisted := firstFault_mem _ f hchecks
        simp only [minitChecks, List.mem_cons, Prod.mk.injEq, List.not_mem_nil, or_false] at hlisted ⊢
        tauto
      | none =>
        refine .inr ⟨c, rfl, rfl, hchecks, ?_⟩
        cases hinit : modeInit C c (s.buf.readBytes a l) s.ccmAlen.toNat s.ccmMlen.toNat with
        | none => exact .inl (minit_of_init_failed hrunning hconfig hchecks hinit)
        | some c' => exact .inr ⟨c', rfl, minit_of_init hrunning hconfig hchecks hinit⟩

/-! ## What MAAD does -/

section
variable (hpass : firstFault (maadChecks a l s) = none)
include hpass

theorem maad_of_aad_failed (haad : modeAad C s.ctx (s.buf.readBytes a l) = none) :
    maad C a l s = .raise .cipherFail { s with phase := s.phase.failCipher } := by
  simp only [maad, hpass, haad]
  rfl

theorem maad_of_aad {c : Ctx} (haad : modeAad C s.ctx (s.buf.readBytes a l) = some c) :
    maad C a l s = .ok { s with ctx := c, phase := { s.phase with aadDone := true } } := by
  simp only [maad, hpass, haad]
  rfl

end

/-- The faults that checks in this order can find. -/
theorem OrderedChecks.mem_of_eq_some {checks : List (Bool × FaultCode)} {c₁ c₂ c₃ f : FaultCode} {P₁ P₂ P₃ : Prop}
    (h : OrderedChecks checks c₁ c₂ c₃ P₁ P₂ P₃) (hf : firstFault checks = some f) : f ∈ [c₁, c₂, c₃] := by
  by_cases h₁ : P₁
  · have := h.first h₁
    simp_all
  · by_cases h₂ : P₂
    · have := h.second h₁ h₂
      simp_all
    · by_cases h₃ : P₃
      · have := h.third h₁ h₂ h₃
        simp_all
      · have := h.none_iff.mpr ⟨h₁, h₂, h₃⟩
        simp_all

/-- What MAAD can do: refuse, fail in Aad, or absorb the AAD. -/
theorem maad_cases (C : Cipher) (a l : Nat) (s : State) :
    (∃ f ∈ [.sequence, .length, .bufBounds], maad C a l s = .raise f s)
      ∨ (firstFault (maadChecks a l s) = none
          ∧ (maad C a l s = .raise .cipherFail { s with phase := s.phase.failCipher }
            ∨ ∃ c, modeAad C s.ctx (s.buf.readBytes a l) = some c
                ∧ maad C a l s = .ok { s with ctx := c, phase := { s.phase with aadDone := true } })) := by
  cases hchecks : firstFault (maadChecks a l s) with
  | some f => exact .inl ⟨f, (orderedChecks_maad a l s).mem_of_eq_some hchecks, maad_of_fault hchecks⟩
  | none =>
    refine .inr ⟨rfl, ?_⟩
    cases haad : modeAad C s.ctx (s.buf.readBytes a l) with
    | none => exact .inl (maad_of_aad_failed hchecks haad)
    | some c => exact .inr ⟨c, rfl, maad_of_aad hchecks haad⟩

/-! ## What MPROC does -/

/-- The state in which MPROC leaves BUF, the context and OUTLEN, with the phase register `p`. -/
def mprocDone (s : State) (b l : Nat) (r : RunResult) (p : PhaseReg) : State :=
  { s with buf := s.buf.writeBytes b r.out }.withSession { r.ctx with processed := s.ctx.processed + l } p l

section
variable (hpass : firstFault (mprocChecks C a b l s) = none)
include hpass

theorem mproc_of_run {r : RunResult} (hrun : r = run C s.ctx (s.buf.readBytes a l)) (hok : r.ok = true) :
    mproc C a b l s = .ok (mprocDone s b l r { s.phase with ph := .data }) := by
  subst hrun
  simp only [mproc, hpass, hok, if_true]
  rfl

theorem mproc_of_run_failed {r : RunResult} (hrun : r = run C s.ctx (s.buf.readBytes a l)) (hok : r.ok = false) :
    mproc C a b l s = .raise .cipherFail (mprocDone s b l r { s.phase with ph := .failed, cipherFail := true }) := by
  subst hrun
  simp only [mproc, hpass, hok, Bool.false_eq_true, if_false]
  rfl

end

/-- What MPROC can do: refuse, or write what Run leaves. -/
theorem mproc_cases (C : Cipher) (a b l : Nat) (s : State) :
    (∃ f ∈ [.sequence, .length, .bufBounds], mproc C a b l s = .raise f s)
      ∨ (firstFault (mprocChecks C a b l s) = none ∧ ∃ r, r = run C s.ctx (s.buf.readBytes a l)
          ∧ ((r.ok = true ∧ mproc C a b l s = .ok (mprocDone s b l r { s.phase with ph := .data }))
            ∨ (r.ok = false ∧ mproc C a b l s =
                .raise .cipherFail (mprocDone s b l r { s.phase with ph := .failed, cipherFail := true })))) := by
  cases hchecks : firstFault (mprocChecks C a b l s) with
  | some f => exact .inl ⟨f, (orderedChecks_mproc C a b l s).mem_of_eq_some hchecks, mproc_of_fault hchecks⟩
  | none =>
    refine .inr ⟨rfl, _, rfl, ?_⟩
    cases hok : (run C s.ctx (s.buf.readBytes a l)).ok with
    | true => exact .inl ⟨rfl, mproc_of_run hchecks rfl hok⟩
    | false => exact .inr ⟨rfl, mproc_of_run_failed hchecks rfl hok⟩

/-! ## What MFINAL does in an authenticated mode -/

/-- The context that MFINAL leaves after Run over `n` data bytes. -/
def finalCtx (s : State) (n : Nat) (r : RunResult) : Ctx := { r.ctx with processed := s.ctx.processed + n }

/-- The address of the tag that an encryption of `l` bytes writes (44_mode_session.md R132). -/
def writtenTagAddr (s : State) (b l : Nat) : Nat :=
  match s.ctx.tagpl with
  | .combined => b + l
  | .detached => s.tagaddr.toNat

/-- OUTLEN after an encryption of `l` bytes: a combined tag counts (44_mode_session.md R132). -/
def taggedLen (c : Ctx) (l : Nat) : Nat :=
  match c.tagpl with
  | .combined => l + c.taglen
  | .detached => l

theorem finalDataLen_of_encrypt {c : Ctx} (henc : c.dir = .encrypt) : finalDataLen c l = l := by
  simp [finalDataLen, henc]

theorem receivedTag_eq {n : Nat} (hdata : finalDataLen s.ctx l = n) :
    receivedTag a l s = s.buf.readBytes (receivedTagAddr s a n) s.ctx.taglen := by
  unfold receivedTag receivedTagAddr
  rw [hdata]
  cases s.ctx.tagpl with
  | combined => rfl
  | detached => rfl

section
variable {r : RunResult} (hpass : firstFault (mfinalChecks C a b l s) = none) (hauth : s.ctx.mode.isAuth = true)
include hpass hauth

theorem mfinal_of_auth (hrun : r = run C s.ctx (s.buf.readBytes a (finalDataLen s.ctx l))) :
    mfinal C a b l s = finalAuth C a b l r s := by
  subst hrun
  simp only [mfinal, hpass, hauth, if_true]

section
variable (henc : s.ctx.dir = .encrypt) (hrun : r = run C s.ctx (s.buf.readBytes a l))
include henc hrun

theorem mfinal_auth_encrypt_failed (hfail : r.ok = false ∨ modeTag C (finalCtx s l r) = none) :
    mfinal C a b l s = .raise .cipherFail ({ s with buf := s.buf.writeBytes b r.out }.withSession (finalCtx s l r)
      { s.phase with ph := .failed, cipherFail := true } l) := by
  have htag : (if r.ok then modeTag C (finalCtx s l r) else none) = none := by
    obtain hok | hnone := hfail
    · rw [hok, if_neg Bool.false_ne_true]
    · rw [hnone, ite_self]
  have hdata := finalDataLen_of_encrypt (l := l) henc
  unfold finalCtx at htag
  rw [mfinal_of_auth (r := r) hpass hauth (by rw [hdata, hrun]), finalAuth]
  simp only [hdata, htag, henc]
  rfl

theorem mfinal_auth_encrypt (hok : r.ok = true) {tag : Bytes} (htag : modeTag C (finalCtx s l r) = some tag) :
    mfinal C a b l s = .ok ({ s with buf := (s.buf.writeBytes b r.out).writeBytes (writtenTagAddr s b l) tag }.withSession
      (finalCtx s l r) { s.phase with ph := .done, tagOk := true } (taggedLen s.ctx l)) := by
  have hdata := finalDataLen_of_encrypt (l := l) henc
  unfold finalCtx at htag
  rw [mfinal_of_auth (r := r) hpass hauth (by rw [hdata, hrun]), finalAuth]
  simp only [hdata, hok, if_true, htag, henc]
  cases hplace : s.ctx.tagpl <;> simp only [writtenTagAddr, taggedLen, hplace] <;> rfl

end

section
variable {n : Nat} (hdec : s.ctx.dir = .decrypt) (hdata : finalDataLen s.ctx l = n)
  (hrun : r = run C s.ctx (s.buf.readBytes a n))
include hdec hdata hrun

theorem mfinal_auth_decrypt_failed (hfail : r.ok = false ∨ modeTag C (finalCtx s n r) = none) :
    mfinal C a b l s = .raise .cipherFail (s.withSession (finalCtx s n r)
      { s.phase with ph := .failed, cipherFail := true } 0) := by
  have htag : (if r.ok then modeTag C (finalCtx s n r) else none) = none := by
    obtain hok | hnone := hfail
    · rw [hok, if_neg Bool.false_ne_true]
    · rw [hnone, ite_self]
  unfold finalCtx at htag
  rw [mfinal_of_auth (r := r) hpass hauth (by rw [hdata, hrun]), finalAuth]
  simp only [hdata, htag, hdec]
  rfl

variable (hok : r.ok = true) {tag : Bytes} (htag : modeTag C (finalCtx s n r) = some tag)
include hok htag

theorem mfinal_auth_decrypt_verified
    (hequal : fullEqual tag (s.buf.readBytes (receivedTagAddr s a n) s.ctx.taglen) = true) :
    mfinal C a b l s = .ok ({ s with buf := s.buf.writeBytes b r.out }.withSession (finalCtx s n r)
      { s.phase with ph := .done, tagOk := true } n) := by
  rw [← receivedTag_eq hdata] at hequal
  unfold finalCtx at htag
  rw [mfinal_of_auth (r := r) hpass hauth (by rw [hdata, hrun]), finalAuth]
  simp only [hdata, hok, if_true, htag, hdec, hequal]
  rfl

theorem mfinal_auth_decrypt_refused
    (hdiffer : fullEqual tag (s.buf.readBytes (receivedTagAddr s a n) s.ctx.taglen) = false) :
    mfinal C a b l s = .raise .authFail (s.withSession (finalCtx s n r)
      { s.phase with ph := .failed, authFail := true } 0) := by
  rw [← receivedTag_eq hdata] at hdiffer
  unfold finalCtx at htag
  rw [mfinal_of_auth (r := r) hpass hauth (by rw [hdata, hrun]), finalAuth]
  simp only [hdata, hok, if_true, htag, hdec, hdiffer, Bool.false_eq_true, if_false]
  rfl

end

end

/-! ## What MFINAL does in an unauthenticated mode -/

/-- The data that MFINAL of an unauthenticated session runs: padded when a block mode encrypts. -/
def plainInput (C : Cipher) (s : State) (a l : Nat) : Bytes :=
  if s.ctx.mode.isBlock = true ∧ s.ctx.dir = .encrypt then padAdd C.bs s.ctx.pad (s.buf.readBytes a l)
  else s.buf.readBytes a l

/-- What it writes of Run's output: without the padding when a block mode decrypts. -/
def plainOutput (C : Cipher) (c : Ctx) (out : Bytes) : Option Bytes :=
  if c.mode.isBlock = true ∧ c.dir = .decrypt then padRemove C.bs c.pad out else some out

theorem finalDataLen_of_plain {c : Ctx} (hplain : c.mode.isAuth = false) : finalDataLen c l = l := by
  simp [finalDataLen, hplain]

section
variable {r : RunResult} (hpass : firstFault (mfinalChecks C a b l s) = none) (hplain : s.ctx.mode.isAuth = false)
  (hrun : r = run C s.ctx (plainInput C s a l))
include hpass hplain hrun

theorem mfinal_of_plain : mfinal C a b l s = finalPlain C b l r s := by
  subst hrun
  simp only [mfinal, hpass, hplain, finalDataLen_of_plain hplain, Bool.false_eq_true, if_false, plainInput,
    Bool.and_eq_true, beq_iff_eq]

theorem mfinal_plain_failed (hok : r.ok = false) :
    mfinal C a b l s = .raise .cipherFail ({ s with buf := s.buf.writeBytes b r.out }.withSession (finalCtx s l r)
      { s.phase with ph := .failed, cipherFail := true } r.out.length) := by
  rw [mfinal_of_plain hpass hplain hrun, finalPlain]
  simp only [hok, Bool.not_false, if_true]
  rfl

variable (hok : r.ok = true)
include hok

theorem mfinal_plain_padding (hpad : plainOutput C s.ctx r.out = none) :
    mfinal C a b l s = .raise .padding (s.withSession (finalCtx s l r)
      { s.phase with ph := .failed, padFail := true } 0) := by
  unfold plainOutput at hpad
  rw [mfinal_of_plain hpass hplain hrun, finalPlain]
  simp only [hok, Bool.not_true, Bool.false_eq_true, if_false, Bool.and_eq_true, beq_iff_eq, hpad]
  rfl

theorem mfinal_plain_done {out : Bytes} (hpad : plainOutput C s.ctx r.out = some out) :
    mfinal C a b l s = .ok ({ s with buf := s.buf.writeBytes b out }.withSession (finalCtx s l r)
      { s.phase with ph := .done } out.length) := by
  unfold plainOutput at hpad
  rw [mfinal_of_plain hpass hplain hrun, finalPlain]
  simp only [hok, Bool.not_true, Bool.false_eq_true, if_false, Bool.and_eq_true, beq_iff_eq, hpad]
  rfl

end

/-- The ways MFINAL ends, its checks passed (44_mode_session.md R132). -/
inductive MfinalEnd (C : Cipher) (a b l : Nat) (s : State) : Result → Prop where
  | encryptFailed {r : RunResult} (hauth : s.ctx.mode.isAuth = true) (henc : s.ctx.dir = .encrypt)
    (hrun : r = run C s.ctx (s.buf.readBytes a l)) :
    MfinalEnd C a b l s (.raise .cipherFail ({ s with buf := s.buf.writeBytes b r.out }.withSession (finalCtx s l r)
      { s.phase with ph := .failed, cipherFail := true } l))
  | encrypted {r : RunResult} {tag : Bytes} (hauth : s.ctx.mode.isAuth = true) (henc : s.ctx.dir = .encrypt)
    (hrun : r = run C s.ctx (s.buf.readBytes a l)) (htag : modeTag C (finalCtx s l r) = some tag) :
    MfinalEnd C a b l s (.ok ({ s with
      buf := (s.buf.writeBytes b r.out).writeBytes (writtenTagAddr s b l) tag }.withSession
      (finalCtx s l r) { s.phase with ph := .done, tagOk := true } (taggedLen s.ctx l)))
  | decryptFailed {r : RunResult} (hauth : s.ctx.mode.isAuth = true) (hdec : s.ctx.dir = .decrypt)
    (hrun : r = run C s.ctx (s.buf.readBytes a (finalDataLen s.ctx l))) :
    MfinalEnd C a b l s (.raise .cipherFail (s.withSession (finalCtx s (finalDataLen s.ctx l) r)
      { s.phase with ph := .failed, cipherFail := true } 0))
  | verified {r : RunResult} (hauth : s.ctx.mode.isAuth = true) (hdec : s.ctx.dir = .decrypt)
    (hrun : r = run C s.ctx (s.buf.readBytes a (finalDataLen s.ctx l))) :
    MfinalEnd C a b l s (.ok ({ s with buf := s.buf.writeBytes b r.out }.withSession
      (finalCtx s (finalDataLen s.ctx l) r) { s.phase with ph := .done, tagOk := true } (finalDataLen s.ctx l)))
  | refused {r : RunResult} (hauth : s.ctx.mode.isAuth = true) (hdec : s.ctx.dir = .decrypt)
    (hrun : r = run C s.ctx (s.buf.readBytes a (finalDataLen s.ctx l))) :
    MfinalEnd C a b l s (.raise .authFail (s.withSession (finalCtx s (finalDataLen s.ctx l) r)
      { s.phase with ph := .failed, authFail := true } 0))
  | plainFailed {r : RunResult} (hplain : s.ctx.mode.isAuth = false) (hrun : r = run C s.ctx (plainInput C s a l)) :
    MfinalEnd C a b l s (.raise .cipherFail ({ s with buf := s.buf.writeBytes b r.out }.withSession (finalCtx s l r)
      { s.phase with ph := .failed, cipherFail := true } r.out.length))
  | padding {r : RunResult} (hplain : s.ctx.mode.isAuth = false) (hrun : r = run C s.ctx (plainInput C s a l))
    (hpad : plainOutput C s.ctx r.out = none) :
    MfinalEnd C a b l s (.raise .padding (s.withSession (finalCtx s l r)
      { s.phase with ph := .failed, padFail := true } 0))
  | plain {r : RunResult} {out : Bytes} (hplain : s.ctx.mode.isAuth = false)
    (hrun : r = run C s.ctx (plainInput C s a l)) (hpad : plainOutput C s.ctx r.out = some out) :
    MfinalEnd C a b l s (.ok ({ s with buf := s.buf.writeBytes b out }.withSession (finalCtx s l r)
      { s.phase with ph := .done } out.length))

theorem mfinalEnd_of_auth (hpass : firstFault (mfinalChecks C a b l s) = none) (hauth : s.ctx.mode.isAuth = true) :
    MfinalEnd C a b l s (mfinal C a b l s) := by
  obtain hfail | ⟨hok, tag, htag⟩ :
      ((run C s.ctx (s.buf.readBytes a (finalDataLen s.ctx l))).ok = false
        ∨ modeTag C (finalCtx s (finalDataLen s.ctx l) (run C s.ctx (s.buf.readBytes a (finalDataLen s.ctx l)))) = none)
      ∨ ((run C s.ctx (s.buf.readBytes a (finalDataLen s.ctx l))).ok = true ∧ ∃ tag,
        modeTag C (finalCtx s (finalDataLen s.ctx l) (run C s.ctx (s.buf.readBytes a (finalDataLen s.ctx l)))) = some tag) := by
    rw [← Option.ne_none_iff_exists', ← Bool.not_eq_false, ← not_or]
    exact Decidable.em _
  · cases hdir : s.ctx.dir with
    | encrypt =>
      rw [finalDataLen_of_encrypt hdir] at hfail
      rw [mfinal_auth_encrypt_failed hpass hauth hdir rfl hfail]
      exact .encryptFailed hauth hdir rfl
    | decrypt =>
      rw [mfinal_auth_decrypt_failed hpass hauth hdir rfl rfl hfail]
      exact .decryptFailed hauth hdir rfl
  · cases hdir : s.ctx.dir with
    | encrypt =>
      rw [finalDataLen_of_encrypt hdir] at hok htag
      rw [mfinal_auth_encrypt hpass hauth hdir rfl hok htag]
      exact .encrypted hauth hdir rfl htag
    | decrypt =>
      cases hequal : fullEqual tag (s.buf.readBytes (receivedTagAddr s a (finalDataLen s.ctx l)) s.ctx.taglen) with
      | true =>
        rw [mfinal_auth_decrypt_verified hpass hauth hdir rfl rfl hok htag hequal]
        exact .verified hauth hdir rfl
      | false =>
        rw [mfinal_auth_decrypt_refused hpass hauth hdir rfl rfl hok htag hequal]
        exact .refused hauth hdir rfl

theorem mfinalEnd_of_plain (hpass : firstFault (mfinalChecks C a b l s) = none) (hplain : s.ctx.mode.isAuth = false) :
    MfinalEnd C a b l s (mfinal C a b l s) := by
  cases hok : (run C s.ctx (plainInput C s a l)).ok with
  | false =>
    rw [mfinal_plain_failed hpass hplain rfl hok]
    exact .plainFailed hplain rfl
  | true =>
    cases hpad : plainOutput C s.ctx (run C s.ctx (plainInput C s a l)).out with
    | none =>
      rw [mfinal_plain_padding hpass hplain rfl hok hpad]
      exact .padding hplain rfl hpad
    | some out =>
      rw [mfinal_plain_done hpass hplain rfl hok hpad]
      exact .plain hplain rfl hpad

/-- What MFINAL can do: refuse, or end the session. -/
theorem mfinal_cases (C : Cipher) (a b l : Nat) (s : State) :
    (∃ f ∈ [.sequence, .length, .bufBounds], mfinal C a b l s = .raise f s)
      ∨ (firstFault (mfinalChecks C a b l s) = none ∧ MfinalEnd C a b l s (mfinal C a b l s)) := by
  cases hchecks : firstFault (mfinalChecks C a b l s) with
  | some f => exact .inl ⟨f, (orderedChecks_mfinal C a b l s).mem_of_eq_some hchecks, mfinal_of_fault hchecks⟩
  | none =>
    refine .inr ⟨rfl, ?_⟩
    cases hauth : s.ctx.mode.isAuth with
    | true => exact mfinalEnd_of_auth hchecks hauth
    | false => exact mfinalEnd_of_plain hchecks hauth

end

end Sys2Proof.Proofs
end

section
/-! The checks of the mode-engine commands against the spec's conditions, and what each command leaves
(44_mode_session.md R127 to R132, 60_exceptions.md R181 to R189). -/

namespace Sys2Proof.Proofs

open Sys2Proof.Machine Sys2Proof.Laws

/-! ## Checks that pass -/

section
variable {C : Cipher} {a b l : Nat} {s : State}

theorem not_takesNoData_iff : ¬TakesNoData s ↔
    (s.phase.ph = .ready ∨ s.phase.ph = .data) ∧ (s.ctx.mode = .ccm → 0 < s.ctx.calen → s.phase.aadDone = true) := by
  simp only [TakesNoData, not_or, not_and, Bool.not_eq_false, ne_eq]
  tauto

theorem mprocChecks_eq_none_iff : firstFault (mprocChecks C a b l s) = none ↔ MprocAccepted C s a b l := by
  rw [(orderedChecks_mproc C a b l s).none_iff, not_takesNoData_iff]
  simp only [MprocLengthIllegal, MprocAccepted, not_or, not_and, Nat.not_lt, ne_eq, not_not, and_assoc]

theorem isBlock_eq_false_of_isAuth {m : Mode} (h : m.isAuth = true) : m.isBlock = false := by
  revert h
  cases m <;> decide

theorem ne_ccm_of_plain {m : Mode} (h : m.isAuth = false) : m ≠ .ccm := by
  rintro rfl
  nomatch h

theorem mfinalChecks_of_plain (hplain : s.ctx.mode.isAuth = false) (h : MfinalPlainAccepted C s a b l) :
    firstFault (mfinalChecks C a b l s) = none := by
  obtain ⟨hphase, haligned, hwhole, hblock, hin, hout⟩ := h
  have hccm := ne_ccm_of_plain hplain
  rw [(orderedChecks_mfinal C a b l s).none_iff, not_takesNoData_iff]
  refine ⟨⟨hphase, fun h => absurd h hccm⟩, ?_, ?_⟩
  · simp only [MfinalLengthIllegal, hplain, hccm, Bool.false_eq_true, false_and, or_false, not_or, not_and, not_not,
      Nat.not_lt]
    exact ⟨haligned, hwhole, hblock⟩
  · simp only [MfinalBoundsIllegal, mfinalData, hplain, Bool.false_eq_true, false_and, or_false, if_false, Nat.add_zero,
      not_or, Nat.not_lt]
    exact ⟨hin, by rwa [← Nat.add_assoc]⟩

theorem mfinalChecks_of_encrypt (hauth : s.ctx.mode.isAuth = true) (henc : s.ctx.dir = .encrypt)
    (h : MfinalTagAccepted s a b l) : firstFault (mfinalChecks C a b l s) = none := by
  obtain ⟨hphase, haad, hlength, hin, hcombined, hdetached⟩ := h
  have hblock := isBlock_eq_false_of_isAuth hauth
  rw [(orderedChecks_mfinal C a b l s).none_iff, not_takesNoData_iff]
  refine ⟨⟨hphase, haad⟩, ?_, ?_⟩
  · simpa [MfinalLengthIllegal, mfinalData, hblock, henc] using hlength
  · simp only [MfinalBoundsIllegal, mfinalData, hauth, hblock, henc, Bool.false_eq_true, false_and, if_false, reduceCtorEq,
      and_false, true_and, Nat.add_zero, not_or, not_and, Nat.not_lt]
    cases hplace : s.ctx.tagpl with
    | combined => simpa [hplace] using ⟨hin, hcombined hplace⟩
    | detached => simpa [hplace] using ⟨hin, hdetached hplace⟩

/-- The data length of a decryption whose checks pass. -/
theorem finalDataLen_of_verify {n : Nat} (hauth : s.ctx.mode.isAuth = true) (hdec : s.ctx.dir = .decrypt)
    (h : MfinalVerifyAccepted s a b l n) : finalDataLen s.ctx l = n := by
  obtain ⟨-, -, -, hcombined, hdetached, -, -⟩ := h
  rw [finalDataLen_eq, mfinalData]
  cases hplace : s.ctx.tagpl with
  | combined => simp [hauth, hdec, hcombined hplace]
  | detached =>
    obtain ⟨hlength, -⟩ := hdetached hplace
    simp [hlength]

theorem mfinalChecks_of_decrypt {n : Nat} (hauth : s.ctx.mode.isAuth = true) (hdec : s.ctx.dir = .decrypt)
    (h : MfinalVerifyAccepted s a b l n) : firstFault (mfinalChecks C a b l s) = none := by
  have hdata := finalDataLen_of_verify hauth hdec h
  rw [finalDataLen_eq] at hdata
  obtain ⟨hphase, haad, hlength, hcombined, hdetached, hin, hout⟩ := h
  have hblock := isBlock_eq_false_of_isAuth hauth
  rw [(orderedChecks_mfinal C a b l s).none_iff, not_takesNoData_iff]
  refine ⟨⟨hphase, haad⟩, ?_, ?_⟩
  · simp only [MfinalLengthIllegal, hdata, hblock, Bool.false_eq_true, false_and, false_or, not_or, not_and, Nat.not_lt,
      not_not]
    exact ⟨fun _ _ hplace => by rw [hcombined hplace]; exact Nat.le_add_left _ _, hlength⟩
  · simp only [MfinalBoundsIllegal, hdata, hblock, hdec, Bool.false_eq_true, false_and, if_false, reduceCtorEq, and_false,
      Nat.add_zero, not_or, not_and, Nat.not_lt]
    exact ⟨hin, hout, fun _ hplace => (hdetached hplace).2⟩

/-- The checks of MINIT behind the configuration pass. -/
theorem minitChecks_of_legal {c : Ctx} (hnonce : nonceLegal C c.mode l = true)
    (hlength : c.mode = .ccm → s.ccmMlen.toNat < 2 ^ (8 * (15 - l))) (hin : a + l ≤ Config.BUF_BYTES) :
    firstFault (minitChecks C a l s c) = none := by
  rw [(orderedChecks_minit C a l s c).none_iff]
  exact ⟨by simp [hnonce], fun ⟨hccm, hlarge⟩ => Nat.not_lt.mpr hlarge (hlength hccm), Nat.not_lt.mpr hin⟩

end

/-! ## The order of the checks -/

/-- What a configuration that is accepted holds: the copies of MCFG, the rest zero. -/
theorem sessionConfig_eq_some {C : Cipher} {mcfg : Word32} {ccmAlen : Nat} {c : Ctx}
    (h : sessionConfig C mcfg ccmAlen = some c) :
    ∃ m p, mcfgMode mcfg = some m ∧ mcfgPad mcfg = some p ∧ configLegal C c ccmAlen = true
      ∧ c = { Ctx.zero with mode := m, dir := mcfgDir mcfg, pad := p, seg := mcfgSeg mcfg
                            taglen := mcfgTaglen mcfg, tagpl := mcfgTagpl mcfg } := by
  unfold sessionConfig at h
  split at h
  · next m p hmode hpad =>
    simp only [Option.ite_none_right_eq_some, Option.some.injEq] at h
    obtain ⟨hlegal, hc⟩ := h
    exact ⟨m, p, hmode, hpad, by rw [← hc]; exact hlegal, hc.symm⟩
  · nomatch h

/-- The nonce lengths of R124, by the code of the mode. -/
theorem nonceLegal_eq_false_iff (C : Cipher) (m : Mode) (l : Nat) :
    nonceLegal C m l = false ↔ NonceIllegal C.bs m.code l := by
  cases m <;> simp [nonceLegal, NonceIllegal, Mode.code]

theorem minit_order {C : Cipher} {s : State} (a l : Nat) (hready : s.phase.ph ≠ .ready) (hdata : s.phase.ph ≠ .data)
    (hlegal : ¬ConfigIllegal C.bs s.mcfg s.ccmAlen.toNat) :
    (NonceIllegal C.bs (bits s.mcfg 3 0) l → minit C a l s = .raise .badNonce s)
      ∧ (¬NonceIllegal C.bs (bits s.mcfg 3 0) l →
        (bits s.mcfg 3 0 = 7 ∧ 2 ^ (8 * (15 - l)) ≤ s.ccmMlen.toNat → minit C a l s = .raise .length s)
        ∧ (¬(bits s.mcfg 3 0 = 7 ∧ 2 ^ (8 * (15 - l)) ≤ s.ccmMlen.toNat) → Config.BUF_BYTES < a + l →
            minit C a l s = .raise .bufBounds s)) := by
  have hidle := running_eq_false hready hdata
  rw [← sessionConfig_eq_none_iff, ← Ne, Option.ne_none_iff_exists'] at hlegal
  obtain ⟨c, hconfig⟩ := hlegal
  obtain ⟨m, p, hmode, -, -, hc⟩ := sessionConfig_eq_some hconfig
  have hcode : bits s.mcfg 3 0 = c.mode.code := by rw [hc]; exact (mcfgMode_eq_some_iff _ _).mp hmode
  have hccm : bits s.mcfg 3 0 = 7 ↔ c.mode = .ccm := by rw [hc]; exact (mode_eq_iff_bits hmode .ccm).symm
  have hchecks := orderedChecks_minit C a l s c
  rw [hccm, hcode, ← nonceLegal_eq_false_iff]
  exact ⟨fun h => minit_of_fault hidle hconfig (hchecks.first h), fun h₁ =>
    ⟨fun h => minit_of_fault hidle hconfig (hchecks.second h₁ h),
      fun h₂ h => minit_of_fault hidle hconfig (hchecks.third h₁ h₂ h)⟩⟩

/-- Settles O31, from the order of each command's checks. -/
theorem nonceLengthAndBoundsChecks : Obligations.NonceLengthAndBoundsChecks := by
  unfold Obligations.NonceLengthAndBoundsChecks
  refine ⟨fun C s a l => minit_order a l, fun C s a l hready haad hauth => ?_, fun C s a b l hphase haad => ?_⟩
  · have hallowed : ¬MaadForbidden s := by simp [MaadForbidden, hready, haad, hauth]
    have hchecks := orderedChecks_maad a l s
    exact ⟨fun h => maad_of_fault (hchecks.second hallowed h), fun h₂ h => maad_of_fault (hchecks.third hallowed h₂ h)⟩
  · have hallowed : ¬TakesNoData s := not_takesNoData_iff.mpr ⟨hphase, haad⟩
    have hmproc := orderedChecks_mproc C a b l s
    have hmfinal := orderedChecks_mfinal C a b l s
    exact ⟨fun h => mproc_of_fault (hmproc.second hallowed h), fun h₂ h => mproc_of_fault (hmproc.third hallowed h₂ h),
      fun h => mfinal_of_fault (hmfinal.second hallowed h), fun h₂ h => mfinal_of_fault (hmfinal.third hallowed h₂ h)⟩

/-! ## What the commands leave -/

/-- Settles O35, from the accepted checks and what MPROC does with Run's output. -/
theorem mprocWritesItsOutput : Obligations.MprocWritesItsOutput := by
  unfold Obligations.MprocWritesItsOutput
  intro s w rest a b l r hqueue haccepted hrun hok
  rw [exec_mproc, mproc_of_run (mprocChecks_eq_none_iff.mpr haccepted) hrun hok]
  exact finish_ok_eq_completed hqueue

/-- Settles O36: each command's own failing path. -/
theorem collaboratorFailure : Obligations.CollaboratorFailure := by
  unfold Obligations.CollaboratorFailure
  intro C s a b l c r
  refine ⟨fun hidle hconfig hnonce hlength hin hinit => ?_, fun hpass haad => maad_of_aad_failed hpass haad,
    fun haccepted hrun hok => ?_, fun hauth henc haccepted hrun hfail => ?_, fun hplain haccepted x hx hrun hok => ?_,
    fun hauth hdec n haccepted hrun hfail => ?_, exec_minit a l s, exec_maad a l s, exec_mproc a b l s,
    exec_mfinal a b l s⟩
  · exact minit_of_init_failed hidle hconfig (minitChecks_of_legal hnonce hlength hin) hinit
  · exact mproc_of_run_failed (mprocChecks_eq_none_iff.mpr haccepted) hrun hok
  · exact mfinal_auth_encrypt_failed (mfinalChecks_of_encrypt hauth henc haccepted) hauth henc hrun hfail
  · subst hx
    exact mfinal_plain_failed (mfinalChecks_of_plain hplain haccepted) hplain hrun hok
  · exact mfinal_auth_decrypt_failed (mfinalChecks_of_decrypt hauth hdec haccepted) hauth hdec
      (finalDataLen_of_verify hauth hdec haccepted) hrun hfail

/-- With no padding to remove, all of Run's output is written. -/
theorem plainOutput_of_no_padding (C : Cipher) {c : Ctx} (out : Bytes)
    (h : ¬(c.mode.isBlock = true ∧ c.dir = .decrypt ∧ c.pad ≠ .none)) : plainOutput C c out = some out := by
  unfold plainOutput
  split
  · next hblock =>
    have hnone : c.pad = .none := by
      by_contra hne
      exact h ⟨hblock.1, hblock.2, hne⟩
    rw [hnone, padRemove]
  · rfl

/-- Settles O37: MFINAL's end in an unauthenticated mode with no padding to remove. -/
theorem mfinalEndsPlainSession : Obligations.MfinalEndsPlainSession := by
  unfold Obligations.MfinalEndsPlainSession
  intro s w rest a b l x r hqueue hplain haccepted hkeep hx hrun hok
  subst hx
  rw [exec_mfinal, mfinal_plain_done (mfinalChecks_of_plain hplain haccepted) hplain hrun hok
    (plainOutput_of_no_padding _ r.out hkeep)]
  exact finish_ok_eq_completed hqueue

theorem isAuth_eq_false_of_isBlock {m : Mode} (h : m.isBlock = true) : m.isAuth = false := by
  revert h
  cases m <;> decide

/-- Settles O38: MFINAL's two ends in a padded decryption. -/
theorem mfinalRemovesPadding : Obligations.MfinalRemovesPadding := by
  unfold Obligations.MfinalRemovesPadding
  intro C s a b l r hblock hdec _ haccepted hrun hok
  have hplain := isAuth_eq_false_of_isBlock hblock
  have hpass := mfinalChecks_of_plain hplain haccepted
  have hinput : plainInput C s a l = s.buf.readBytes a l := if_neg (by simp [hdec])
  have houtput : plainOutput C s.ctx r.out = padRemove C.bs s.ctx.pad r.out := if_pos ⟨hblock, hdec⟩
  rw [← hinput] at hrun
  rw [← houtput]
  exact ⟨fun out hpad => mfinal_plain_done hpass hplain hrun hok hpad, mfinal_plain_padding hpass hplain hrun hok⟩

/-! ## Tags -/

theorem length_blockBytes (n : Nat) (b : Block) : (blockBytes n b).length = n := length_beBytes n b.toNat

/-- A tag is as long as TAGLEN says, which is at most a block (46_mode_gcm.md R150, 47_mode_ccm.md R158,
48_mode_ocb.md R167). -/
theorem length_modeTag {C : Cipher} {c : Ctx} {tag : Bytes} (h : modeTag C c = some tag) (ht : c.taglen ≤ 16) :
    tag.length = c.taglen := by
  unfold modeTag at h
  split at h
  · cases h
    simp [gcmTag, length_blockBytes, ht]
  · cases h
    simp [ccmTag, xorBytes, length_blockBytes, ht]
  · obtain ⟨k, -, rfl⟩ := Option.map_eq_some_iff.mp h
    simp [length_blockBytes, ht]
  all_goals nomatch h

end Sys2Proof.Proofs
end

section
/-! Run: its segments in order, what it keeps of the context, and its length (44_mode_session.md R126, R127). -/

namespace Sys2Proof.Proofs

open Sys2Proof.Machine Sys2Proof.Laws

/-! ## One run after another -/

/-- The result `r` followed by the result `r'` of what came next. -/
def RunResult.andThen (r r' : RunResult) : RunResult := { out := r.out ++ r'.out, ctx := r'.ctx, ok := r.ok && r'.ok }

/-- What Run has before its first segment. -/
def runStart (c : Ctx) : RunResult := { out := [], ctx := c, ok := true }

theorem andThen_assoc (r₁ r₂ r₃ : RunResult) :
    RunResult.andThen (RunResult.andThen r₁ r₂) r₃ = RunResult.andThen r₁ (RunResult.andThen r₂ r₃) := by
  simp [RunResult.andThen, Bool.and_assoc]

section
variable (f : Ctx → Bytes → Option (Bytes × Ctx)) (c : Ctx) (x : Bytes)

theorem runOne_of_none (h : f c x = none) : runOne f (runStart c) x = { out := x, ctx := c, ok := false } := by
  simp [runOne, runStart, h]

theorem runOne_of_some {o : Bytes} {c' : Ctx} (h : f c x = some (o, c')) :
    runOne f (runStart c) x = { out := o, ctx := c', ok := true } := by
  simp [runOne, runStart, h]

/-- A segment only looks at the context that the ones before it left. -/
theorem runOne_eq_andThen (r : RunResult) : runOne f r x = RunResult.andThen r (runOne f (runStart r.ctx) x) := by
  cases h : f r.ctx x with
  | none => simp [runOne, RunResult.andThen, runStart, h]
  | some p => simp [runOne, RunResult.andThen, runStart, h]

theorem runOne_andThen (r r' : RunResult) :
    runOne f (RunResult.andThen r r') x = RunResult.andThen r (runOne f r' x) := by
  rw [runOne_eq_andThen f x (RunResult.andThen r r'), runOne_eq_andThen f x r', ← andThen_assoc]
  rfl

theorem foldl_runOne_eq_andThen (r : RunResult) (xs : List Bytes) :
    xs.foldl (runOne f) r = RunResult.andThen r (xs.foldl (runOne f) (runStart r.ctx)) := by
  induction xs generalizing r with
  | nil => simp [RunResult.andThen, runStart]
  | cons x xs ih =>
    rw [List.foldl_cons, ih (runOne f r x), List.foldl_cons, ih (runOne f (runStart r.ctx) x), runOne_eq_andThen f x r,
      andThen_assoc]
    rfl

end

/-! ## What a session keeps -/

/-- The fields that no data command changes: the copies of MCFG and what CCM's Init fixed (10_state.md R48). -/
structure SameSession (c c' : Ctx) : Prop where
  mode : c'.mode = c.mode
  dir : c'.dir = c.dir
  pad : c'.pad = c.pad
  seg : c'.seg = c.seg
  taglen : c'.taglen = c.taglen
  tagpl : c'.tagpl = c.tagpl
  processed : c'.processed = c.processed
  q : c'.q = c.q
  N : c'.N = c.N
  calen : c'.calen = c.calen
  cmlen : c'.cmlen = c.cmlen

theorem SameSession.refl (c : Ctx) : SameSession c c := ⟨rfl, rfl, rfl, rfl, rfl, rfl, rfl, rfl, rfl, rfl, rfl⟩

theorem SameSession.trans {c₁ c₂ c₃ : Ctx} (h : SameSession c₁ c₂) (h' : SameSession c₂ c₃) : SameSession c₁ c₃ :=
  ⟨h'.mode.trans h.mode, h'.dir.trans h.dir, h'.pad.trans h.pad, h'.seg.trans h.seg, h'.taglen.trans h.taglen,
    h'.tagpl.trans h.tagpl, h'.processed.trans h.processed, h'.q.trans h.q, h'.N.trans h.N, h'.calen.trans h.calen,
    h'.cmlen.trans h.cmlen⟩

theorem SameSession.segmentSize_eq {c c' : Ctx} (h : SameSession c c') (C : Cipher) :
    segmentSize C c' = segmentSize C c := by
  rw [segmentSize, segmentSize, h.mode, h.seg]

/-- `c'` is `c` but for the values the modes keep for their own blocks. -/
theorem sameSession_update (c : Ctx) (V CTR CB X Y Off Chk : Block) (clen i : Nat) :
    SameSession c { c with V := V, CTR := CTR, CB := CB, X := X, Y := Y, Off := Off, Chk := Chk, clen := clen, i := i } :=
  ⟨rfl, rfl, rfl, rfl, rfl, rfl, rfl, rfl, rfl, rfl, rfl⟩

section
variable {C : Cipher} {c c' : Ctx}

theorem ecbStep_same {x o : Block} (h : ecbStep C c x = some (o, c')) : SameSession c c' := by
  unfold ecbStep at h
  split at h <;> obtain ⟨_, -, heq⟩ := Option.map_eq_some_iff.mp h <;> cases heq <;> exact SameSession.refl c

theorem cbcStep_same {x o : Block} (h : cbcStep C c x = some (o, c')) : SameSession c c' := by
  unfold cbcStep at h
  split at h <;> obtain ⟨_, -, heq⟩ := Option.map_eq_some_iff.mp h <;> cases heq <;> exact sameSession_update c ..

theorem pcbcStep_same {x o : Block} (h : pcbcStep C c x = some (o, c')) : SameSession c c' := by
  unfold pcbcStep at h
  split at h <;> obtain ⟨_, -, heq⟩ := Option.map_eq_some_iff.mp h <;> cases heq <;> exact sameSession_update c ..

theorem cfbStep_same {x o : Block} (h : cfbStep C c x = some (o, c')) : SameSession c c' := by
  obtain ⟨_, -, heq⟩ := Option.map_eq_some_iff.mp h
  split at heq <;> cases heq <;> exact sameSession_update c ..

theorem cfb8Step_same {x o : Bytes} (h : cfb8Step C c x = some (o, c')) : SameSession c c' := by
  obtain ⟨_, -, heq⟩ := Option.map_eq_some_iff.mp h
  cases heq
  exact sameSession_update c ..

theorem ofbStep_same {x o : Block} (h : ofbStep C c x = some (o, c')) : SameSession c c' := by
  obtain ⟨_, -, heq⟩ := Option.map_eq_some_iff.mp h
  cases heq
  exact sameSession_update c ..

theorem ctrStep_same {x o : Block} (h : ctrStep C c x = some (o, c')) : SameSession c c' := by
  obtain ⟨_, -, heq⟩ := Option.map_eq_some_iff.mp h
  cases heq
  exact sameSession_update c ..

theorem gcmStep_same {x o : Block} (h : gcmStep C c x = some (o, c')) : SameSession c c' := by
  obtain ⟨_, -, heq⟩ := Option.map_eq_some_iff.mp h
  cases heq
  exact sameSession_update c ..

theorem ccmStep_same {x o : Block} (h : ccmStep C c x = some (o, c')) : SameSession c c' := by
  obtain ⟨_, -, hmap⟩ := Option.bind_eq_some_iff.mp h
  obtain ⟨_, -, heq⟩ := Option.map_eq_some_iff.mp hmap
  cases heq
  exact sameSession_update c ..

theorem ocbStep_same {x o : Block} (h : ocbStep C c x = some (o, c')) : SameSession c c' := by
  unfold ocbStep at h
  simp only at h
  split at h <;> obtain ⟨_, -, heq⟩ := Option.map_eq_some_iff.mp h <;> cases heq <;> exact sameSession_update c ..

/-- A step on a whole block writes a whole block. -/
theorem onBlock_spec {step : Cipher → Ctx → Block → Option (Block × Ctx)}
    (hstep : ∀ {x o : Block}, step C c x = some (o, c') → SameSession c c') {x o : Bytes} (hx : x.length = C.bs)
    (h : onBlock C step c x = some (o, c')) : o.length = x.length ∧ SameSession c c' := by
  obtain ⟨⟨b, d⟩, hb, heq⟩ := Option.map_eq_some_iff.mp h
  cases heq
  exact ⟨by rw [length_blockBytes, hx], hstep hb⟩

theorem segmentSize_of_ne_cfb (h : c.mode ≠ .cfb) : segmentSize C c = C.bs := if_neg fun hcfb => h hcfb.1

theorem length_xorBytes_blockBytes {x : Bytes} {n : Nat} (hx : x.length ≤ n) (b : Block) :
    (xorBytes x (blockBytes n b)).length = x.length := by
  rw [xorBytes, List.length_zipWith, length_blockBytes, Nat.min_eq_left hx]

theorem bs_eq (C : Cipher) : C.bs = 8 ∨ C.bs = 16 := by
  unfold Cipher.bs
  split
  · exact .inr rfl
  · exact .inl rfl

theorem segmentSize_pos (C : Cipher) (c : Ctx) : 0 < segmentSize C c := by
  have hbs := bs_eq C
  unfold segmentSize
  split <;> omega

theorem segmentSize_le_bs (C : Cipher) (c : Ctx) : segmentSize C c ≤ C.bs := by
  have hbs := bs_eq C
  unfold segmentSize
  split <;> omega

/-- A step writes as many bytes as it takes and stays in its session. -/
theorem modeStep_spec {x o : Bytes} (hx : x.length = segmentSize C c) (h : modeStep C c x = some (o, c')) :
    o.length = x.length ∧ SameSession c c' := by
  have hblock (hne : c.mode ≠ .cfb) : x.length = C.bs := hx.trans (segmentSize_of_ne_cfb hne)
  unfold modeStep at h
  split at h
  · next hmode => exact onBlock_spec ecbStep_same (hblock (by rw [hmode]; decide)) h
  · next hmode => exact onBlock_spec cbcStep_same (hblock (by rw [hmode]; decide)) h
  · next hmode => exact onBlock_spec pcbcStep_same (hblock (by rw [hmode]; decide)) h
  · split at h
    · next hseg => exact onBlock_spec cfbStep_same (hx.trans (if_neg (by simp [hseg]))) h
    · refine ⟨?_, cfb8Step_same h⟩
      obtain ⟨_, -, heq⟩ := Option.map_eq_some_iff.mp h
      cases heq
      exact length_xorBytes_blockBytes (hx.trans_le (segmentSize_le_bs C c)) _
  · next hmode => exact onBlock_spec ofbStep_same (hblock (by rw [hmode]; decide)) h
  · next hmode => exact onBlock_spec ctrStep_same (hblock (by rw [hmode]; decide)) h
  · next hmode => exact onBlock_spec gcmStep_same (hblock (by rw [hmode]; decide)) h
  · next hmode => exact onBlock_spec ccmStep_same (hblock (by rw [hmode]; decide)) h
  · next hmode => exact onBlock_spec ocbStep_same (hblock (by rw [hmode]; decide)) h

/-- So does a tail. -/
theorem modeTail_spec {x o : Bytes} (hx : x.length < segmentSize C c) (h : modeTail C c x = some (o, c')) :
    o.length = x.length ∧ SameSession c c' := by
  have hbs : x.length ≤ C.bs := (hx.trans_le (segmentSize_le_bs C c)).le
  have h16 : x.length ≤ 16 := hbs.trans (bs_le_16 C)
  unfold modeTail at h
  split at h
  iterate 3 · nomatch h
  · obtain ⟨_, -, heq⟩ := Option.map_eq_some_iff.mp h
    cases heq
    exact ⟨length_xorBytes_blockBytes hbs _, SameSession.refl c⟩
  iterate 2
    · obtain ⟨_, -, heq⟩ := Option.map_eq_some_iff.mp h
      cases heq
      exact ⟨length_xorBytes_blockBytes hbs _, sameSession_update c ..⟩
  · obtain ⟨_, -, heq⟩ := Option.map_eq_some_iff.mp h
    cases heq
    exact ⟨length_xorBytes_blockBytes h16 _, sameSession_update c ..⟩
  · obtain ⟨_, -, hmap⟩ := Option.bind_eq_some_iff.mp h
    obtain ⟨_, -, heq⟩ := Option.map_eq_some_iff.mp hmap
    cases heq
    exact ⟨length_xorBytes_blockBytes h16 _, sameSession_update c ..⟩
  · obtain ⟨_, -, heq⟩ := Option.map_eq_some_iff.mp h
    cases heq
    exact ⟨length_xorBytes_blockBytes h16 _, sameSession_update c ..⟩

/-- One segment, failed or not, keeps the length and the session. -/
theorem runOne_spec {f : Ctx → Bytes → Option (Bytes × Ctx)} {x : Bytes}
    (hf : ∀ {o : Bytes} {c' : Ctx}, f c x = some (o, c') → o.length = x.length ∧ SameSession c c') :
    (runOne f (runStart c) x).out.length = x.length ∧ SameSession c (runOne f (runStart c) x).ctx := by
  cases h : f c x with
  | none =>
    rw [runOne_of_none f c x h]
    exact ⟨rfl, SameSession.refl c⟩
  | some p =>
    rw [runOne_of_some f c x h]
    exact hf h

end

/-! ## Run, segment by segment -/

section
variable (C : Cipher)

theorem pieces_append {n : Nat} {x : Bytes} (hx : x.length = n) (count : Nat) (y : Bytes) :
    pieces n (count + 1) (x ++ y) = x :: pieces n count y := by
  rw [pieces, List.take_left' hx, List.drop_left' hx]

theorem run_nil (c : Ctx) : run C c [] = runStart c := by
  rw [run, List.length_nil, Nat.zero_mod, Nat.zero_div, if_pos rfl]
  rfl

/-- What is shorter than a segment goes through Tail. -/
theorem run_of_short (c : Ctx) {x : Bytes} (hpos : 0 < x.length) (hshort : x.length < segmentSize C c) :
    run C c x = runOne (modeTail C) (runStart c) x := by
  rw [run, Nat.mod_eq_of_lt hshort, Nat.div_eq_of_lt hshort, if_neg hpos.ne', Nat.mul_zero, List.drop_zero]
  rfl

/-- A whole segment goes through Step, and Run goes on from the context it left. -/
theorem run_append_of_segment (c : Ctx) {x : Bytes} (hx : x.length = segmentSize C c) (y : Bytes) :
    run C c (x ++ y) = RunResult.andThen (runOne (modeStep C) (runStart c) x)
      (run C (runOne (modeStep C) (runStart c) x).ctx y) := by
  have hpos := segmentSize_pos C c
  have hsize : segmentSize C (runOne (modeStep C) (runStart c) x).ctx = segmentSize C c :=
    (runOne_spec (f := modeStep C) (modeStep_spec hx)).2.segmentSize_eq C
  have hcount : (x ++ y).length / segmentSize C c = y.length / segmentSize C c + 1 := by
    rw [List.length_append, hx, Nat.add_comm, Nat.add_div_right _ hpos]
  have hrest : (x ++ y).length % segmentSize C c = y.length % segmentSize C c := by
    rw [List.length_append, hx, Nat.add_mod_left]
  have hdrop (k : Nat) : (x ++ y).drop (segmentSize C c * (k + 1)) = y.drop (segmentSize C c * k) := by
    rw [Nat.mul_add_one, Nat.add_comm, ← List.drop_drop, List.drop_left' hx]
  simp only [run, hcount, hrest, hsize, pieces_append hx, List.foldl_cons, hdrop]
  change (if _ then List.foldl _ (runOne (modeStep C) (runStart c) x) _
    else runOne _ (List.foldl _ (runOne (modeStep C) (runStart c) x) _) _) = _
  rw [foldl_runOne_eq_andThen]
  split
  · rfl
  · rw [runOne_andThen]
    rfl

/-- Induction along Run: no data, a rest shorter than a segment, or a whole segment before the data that Run takes from the
context it leaves. -/
theorem run_induction {P : Ctx → Bytes → Prop} (nil : ∀ c, P c [])
    (short : ∀ c (x : Bytes), 0 < x.length → x.length < segmentSize C c → P c x)
    (segment : ∀ c (x y : Bytes), x.length = segmentSize C c → P (runOne (modeStep C) (runStart c) x).ctx y →
      P c (x ++ y)) (c : Ctx) (x : Bytes) : P c x := by
  induction hn : x.length using Nat.strong_induction_on generalizing c x with
  | _ n ih =>
    have hsize := segmentSize_pos C c
    obtain hzero | hpos := Nat.eq_zero_or_pos x.length
    · rw [List.eq_nil_of_length_eq_zero hzero]
      exact nil c
    · obtain hshort | hlong := Nat.lt_or_ge x.length (segmentSize C c)
      · exact short c x hpos hshort
      · rw [← List.take_append_drop (segmentSize C c) x]
        refine segment c _ _ (List.length_take_of_le hlong) (ih (x.drop (segmentSize C c)).length ?_ _ _ rfl)
        rw [List.length_drop]
        omega

/-- Run writes as many bytes as it takes, and stays in its session. -/
theorem run_spec (c : Ctx) (x : Bytes) : (run C c x).out.length = x.length ∧ SameSession c (run C c x).ctx := by
  induction c, x using run_induction C with
  | nil c =>
    rw [run_nil]
    exact ⟨rfl, SameSession.refl c⟩
  | short c x hpos hshort =>
    rw [run_of_short C c hpos hshort]
    exact runOne_spec (modeTail_spec hshort)
  | segment c x y hx ih =>
    obtain ⟨hlength, hsame⟩ := ih
    obtain ⟨hone, hfirst⟩ := runOne_spec (f := modeStep C) (modeStep_spec hx)
    rw [run_append_of_segment C c hx]
    exact ⟨by simp [RunResult.andThen, hone, hlength], hfirst.trans hsame⟩

theorem length_run (c : Ctx) (x : Bytes) : (run C c x).out.length = x.length := (run_spec C c x).1

theorem run_sameSession (c : Ctx) (x : Bytes) : SameSession c (run C c x).ctx := (run_spec C c x).2

/-- Run over two pieces, the first of whole segments, is Run over the one and then over the other. -/
theorem run_append (c : Ctx) (x y : Bytes) (hx : x.length % segmentSize C c = 0) :
    run C c (x ++ y) = RunResult.andThen (run C c x) (run C (run C c x).ctx y) := by
  induction c, x using run_induction C with
  | nil c =>
    rw [run_nil]
    rfl
  | short c x hpos hshort =>
    rw [Nat.mod_eq_of_lt hshort] at hx
    omega
  | segment c x x' hsegment ih =>
    have hsize := (runOne_spec (f := modeStep C) (modeStep_spec hsegment)).2.segmentSize_eq C
    have hrest : x'.length % segmentSize C (runOne (modeStep C) (runStart c) x).ctx = 0 := by
      rw [List.length_append, hsegment, Nat.add_mod_left] at hx
      rwa [hsize]
    rw [List.append_assoc, run_append_of_segment C c hsegment, run_append_of_segment C c hsegment, ih hrest, andThen_assoc]
    rfl

end

/-- Settles O43, from Run on a short string and on a string that begins with a whole segment. -/
theorem runTakesSegmentsInOrder : Obligations.RunTakesSegmentsInOrder := by
  unfold Obligations.RunTakesSegmentsInOrder
  intro C c x y
  refine ⟨length_run C c x, fun hpos hshort => ⟨fun hfail => ?_, fun o c' htail => ?_⟩, fun hx hfail => ?_,
    fun hx o c' hstep => ?_⟩
  · rw [run_of_short C c hpos hshort, runOne_of_none _ _ _ hfail]
  · rw [run_of_short C c hpos hshort, runOne_of_some _ _ _ htail]
  · rw [run_append_of_segment C c hx, runOne_of_none _ _ _ hfail]
    rfl
  · rw [run_append_of_segment C c hx, runOne_of_some _ _ _ hstep]
    rfl

end Sys2Proof.Proofs
end

section
/-! How sessions end and what the mode engine stores: tags, the comparison of tags, completion faults and the regions of BUF
that are written (44_mode_session.md R128, R131, R132, 60_exceptions.md R187 to R189). -/

namespace Sys2Proof.Proofs

open Sys2Proof.Machine Sys2Proof.Laws

/-! ## The values of the tags -/

/-- Byte `k` of a block, the most significant first (00_scope.md R18). -/
theorem getElem?_blockBytes (n : Nat) (b : Block) {k : Nat} (hk : k < n) :
    (blockBytes n b)[k]? = some (BitVec.ofNat 8 (b.toNat / 256 ^ (n - 1 - k))) := by
  have hlength : k < (beBytes n b.toNat).length := by rwa [length_beBytes]
  rw [blockBytes, List.getElem?_eq_getElem hlength, getElem_beBytes, Nat.pow_mul]

/-- The bytes of a XOR of blocks are the XORs of their bytes. -/
theorem xorBytes_blockBytes (n : Nat) (x y : Block) : xorBytes (blockBytes n x) (blockBytes n y) = blockBytes n (x ^^^ y) := by
  refine List.ext_getElem (by simp [xorBytes, length_blockBytes]) fun k hk _ => ?_
  simp only [xorBytes, List.getElem_zipWith, blockBytes, getElem_beBytes]
  refine BitVec.eq_of_getLsbD_eq fun j hj => ?_
  simp only [BitVec.getLsbD_xor, BitVec.getLsbD_ofNat, BitVec.toNat_xor, Nat.testBit_div_two_pow, Nat.testBit_xor,
    Bool.and_xor_distrib_left]

/-- GCM's length block is the two bit lengths modulo 2^64, the one above the other (46_mode_gcm.md R150). -/
theorem toNat_gcmLengthBlock (alen clen : Nat) :
    (blockOf (beBytes 8 (8 * alen) ++ beBytes 8 (8 * clen))).toNat = 8 * alen % 2 ^ 64 * 2 ^ 64 + 8 * clen % 2 ^ 64 := by
  rw [toNat_blockOf (by simp), be_append, be_beBytes, be_beBytes, length_beBytes]
  rfl

/-- CCM's tag is a piece of one block (47_mode_ccm.md R158). -/
theorem ccmTag_eq (c : Ctx) : ccmTag c = (blockBytes 16 (c.Y ^^^ c.S0)).take c.taglen := by
  rw [ccmTag, xorBytes, ← List.take_zipWith, ← xorBytes, xorBytes_blockBytes]

/-- Settles O39: the tag stands behind the data or at TAGADDR, and each mode's tag is the beginning of a block. -/
theorem mfinalAppendsTag : Obligations.MfinalAppendsTag := by
  unfold Obligations.MfinalAppendsTag
  refine ⟨fun s w rest a b l r c tag hqueue hauth henc haccepted hrun hok hc htag => ?_,
    fun C c k => ⟨fun hmode => ?_, fun hmode => ?_, fun hmode hcall => ?_⟩,
    fun n b => ⟨length_blockBytes n b, fun k hk => getElem?_blockBytes n b hk⟩⟩
  · subst hc
    have hend := mfinal_auth_encrypt (mfinalChecks_of_encrypt (C := Config.cipher) hauth henc haccepted) hauth henc hrun hok htag
    rw [exec_mfinal, hend]
    refine ⟨fun hplace => ?_, fun hplace => ?_⟩ <;> simp only [writtenTagAddr, taggedLen, hplace] <;>
      exact finish_ok_eq_completed hqueue
  · exact ⟨_, toNat_gcmLengthBlock c.alen c.clen, by simp only [modeTag, hmode, gcmTag]⟩
  · simp only [modeTag, hmode, ccmTag_eq]
  · simp only [modeTag, hmode, ocbTag, hcall, Option.map_some]

/-- Settles O40: the comparison is over strings of one length, so it decides equality. -/
theorem mfinalVerifiesTag : Obligations.MfinalVerifiesTag := by
  unfold Obligations.MfinalVerifiesTag
  intro s w rest a b l n r c tag hqueue hauth hdec ht haccepted hrun hok hc htag
  subst hc
  have hpass := mfinalChecks_of_decrypt (C := Config.cipher) hauth hdec haccepted
  have hdata := finalDataLen_of_verify hauth hdec haccepted
  have htaglen : r.ctx.taglen = s.ctx.taglen := by rw [hrun]; exact (run_sameSession _ _ _).taglen
  have hlength : tag.length = (s.buf.readBytes (receivedTagAddr s a n) s.ctx.taglen).length := by
    rw [length_readBytes, ← htaglen]
    exact length_modeTag htag (by rwa [htaglen])
  rw [exec_mfinal]
  refine ⟨fun hequal => ?_, fun hdiffer => ?_⟩
  · rw [mfinal_auth_decrypt_verified hpass hauth hdec hdata hrun hok htag ((fullEqual_iff _ _ hlength).mpr hequal)]
    exact finish_ok_eq_completed hqueue
  · rw [mfinal_auth_decrypt_refused hpass hauth hdec hdata hrun hok htag
      (Bool.eq_false_iff.mpr fun hequal => hdiffer ((fullEqual_iff _ _ hlength).mp hequal))]
    exact finish_raise_eq_faulted _ (s := s.withSession _ _ _) hqueue

/-- Settles O41: of the ends of a decryption only the verified one writes. -/
theorem mfinalReleasesOnlyVerifiedPlaintext : Obligations.MfinalReleasesOnlyVerifiedPlaintext := by
  unfold Obligations.MfinalReleasesOnlyVerifiedPlaintext
  intro s t a b l hauth hdec hexec
  rw [exec_mfinal] at hexec
  obtain ⟨f, -, hraise⟩ | ⟨-, hend⟩ := mfinal_cases Config.cipher a b l s
  · rw [hraise] at hexec
    cases hexec
    exact .inl rfl
  · generalize mfinal Config.cipher a b l s = result at hexec hend
    cases hend with
    | encryptFailed _ henc | encrypted _ henc =>
      rw [hdec] at henc
      nomatch henc
    | plainFailed hplain | padding hplain | plain hplain =>
      rw [hauth] at hplain
      nomatch hplain
    | decryptFailed | refused =>
      cases hexec
      exact .inl rfl
    | verified =>
      cases hexec
      exact .inr ⟨rfl, rfl, rfl⟩

/-! ## Completion faults -/

/-- The faults of checks are no completion faults (40_control.md R91). -/
theorem not_completion_of_check {f : FaultCode}
    (h : f ∈ [FaultCode.sequence, .badConfig, .badNonce, .length, .bufBounds]) : isCompletionFault f = false := by
  revert f
  decide

/-- What a completion fault leaves before the fault entry: a FAILED session with the flag of the fault, and PADDING and
AUTH_FAIL without any output (60_exceptions.md R187 to R189). -/
def FailedSession (s : State) (c : FaultCode) (t : State) : Prop :=
  t.phase.ph = .failed
    ∧ (c = .cipherFail → t.phase.cipherFail = true)
    ∧ (c = .padding → t.phase.padFail = true ∧ t.buf = s.buf ∧ t.outlen = 0)
    ∧ (c = .authFail → t.phase.authFail = true ∧ t.buf = s.buf ∧ t.outlen = 0)
    ∧ { t with buf := s.buf, outlen := s.outlen, phase := s.phase, ctx := s.ctx } = s

section
variable {C : Cipher} {a b l : Nat} {s t : State} {c : FaultCode} (hcompletion : isCompletionFault c = true)
include hcompletion

/-- A command that refuses raises no completion fault. -/
theorem not_refused_of_completion {result : Result} {checked : List FaultCode}
    (hchecked : checked ⊆ [.sequence, .badConfig, .badNonce, .length, .bufBounds])
    (hrefused : ∃ f ∈ checked, result = .raise f s) : result ≠ .raise c t := by
  obtain ⟨f, hf, hraise⟩ := hrefused
  rintro hresult
  rw [hraise] at hresult
  cases hresult
  rw [not_completion_of_check (hchecked hf)] at hcompletion
  nomatch hcompletion

theorem minit_failedSession (h : minit C a l s = .raise c t) : FailedSession s c t := by
  obtain hrefused | ⟨_, -, -, -, hfailed | ⟨_, -, hok⟩⟩ := minit_cases C a l s
  · exact absurd h (not_refused_of_completion hcompletion (by simp) hrefused)
  · rw [hfailed] at h
    cases h
    exact ⟨rfl, fun _ => rfl, nofun, nofun, rfl⟩
  · rw [hok] at h
    nomatch h

theorem maad_failedSession (h : maad C a l s = .raise c t) : FailedSession s c t := by
  obtain hrefused | ⟨-, hfailed | ⟨_, -, hok⟩⟩ := maad_cases C a l s
  · exact absurd h (not_refused_of_completion hcompletion (by simp) hrefused)
  · rw [hfailed] at h
    cases h
    exact ⟨rfl, fun _ => rfl, nofun, nofun, rfl⟩
  · rw [hok] at h
    nomatch h

theorem mproc_failedSession (h : mproc C a b l s = .raise c t) : FailedSession s c t := by
  obtain hrefused | ⟨-, r, -, ⟨-, hok⟩ | ⟨-, hfailed⟩⟩ := mproc_cases C a b l s
  · exact absurd h (not_refused_of_completion hcompletion (by simp) hrefused)
  · rw [hok] at h
    nomatch h
  · rw [hfailed] at h
    cases h
    exact ⟨rfl, fun _ => rfl, nofun, nofun, rfl⟩

theorem mfinal_failedSession (h : mfinal C a b l s = .raise c t) : FailedSession s c t := by
  obtain hrefused | ⟨-, hend⟩ := mfinal_cases C a b l s
  · exact absurd h (not_refused_of_completion hcompletion (by simp) hrefused)
  · rw [h] at hend
    cases hend with
    | encryptFailed | decryptFailed | plainFailed => exact ⟨rfl, fun _ => rfl, nofun, nofun, rfl⟩
    | refused => exact ⟨rfl, nofun, nofun, fun _ => ⟨rfl, rfl, rfl⟩, rfl⟩
    | padding => exact ⟨rfl, nofun, fun _ => ⟨rfl, rfl, rfl⟩, nofun, rfl⟩

end

/-- Settles O11, command by command. -/
theorem completionFaultsFailTheSession : Obligations.CompletionFaultsFailTheSession := by
  unfold Obligations.CompletionFaultsFailTheSession
  intro C s t a b l c hraise hcompletion
  obtain h | h | h | h := hraise
  · exact minit_failedSession hcompletion h
  · exact maad_failedSession hcompletion h
  · exact mproc_failedSession hcompletion h
  · exact mfinal_failedSession hcompletion h

/-! ## What is stored -/

/-- A string of at most `n` bytes written at `b`, where `n` bytes fit, changes nothing outside those `n` bytes. -/
theorem writeBytes_stores {m : Memory} (hwf : m.wf) {b n : Nat} {v : Bytes} (hlength : v.length ≤ n)
    (hin : b + n ≤ Config.BUF_BYTES) :
    (m.writeBytes b v).wf ∧ ∀ x, (x < b ∨ b + n ≤ x) → (m.writeBytes b v).read x = m.read x :=
  ⟨writeBytes_wf _ _ _ hwf (by omega), fun _ hx => read_writeBytes_other _ _ _ _ hwf (by omega) (by omega)⟩

section
variable {C : Cipher} {a b l : Nat} {s : State}

/-- MPROC's checks passed, its output fits at `b`. -/
theorem mproc_stores (hwf : s.buf.wf) (hpass : firstFault (mprocChecks C a b l s) = none) {r : RunResult}
    (hrun : r = run C s.ctx (s.buf.readBytes a l)) (p : PhaseReg) :
    (mprocDone s b l r p).buf.wf ∧ ∀ x, (x < b ∨ b + l ≤ x) → (mprocDone s b l r p).buf.read x = s.buf.read x := by
  obtain ⟨-, -, -, -, -, hout⟩ := mprocChecks_eq_none_iff.mp hpass
  exact writeBytes_stores hwf (by rw [hrun, length_run, length_readBytes]) hout

theorem length_modeTag_le {c : Ctx} {tag : Bytes} (h : modeTag C c = some tag) : tag.length ≤ c.taglen := by
  unfold modeTag at h
  split at h
  · cases h
    exact (List.length_take_le _ _)
  · cases h
    rw [ccmTag_eq]
    exact List.length_take_le _ _
  · obtain ⟨k, -, rfl⟩ := Option.map_eq_some_iff.mp h
    exact List.length_take_le _ _
  all_goals nomatch h

theorem length_padAdd (bs : Nat) (pad : Pad) (x : Bytes) : (padAdd bs pad x).length = x.length + padLen bs pad x.length := by
  cases pad <;> simp [padAdd, padLen]

theorem length_plainInput : (plainInput C s a l).length = l + finalPadLen C s.ctx l := by
  rw [plainInput, finalPadLen_eq]
  split
  · rw [length_padAdd, length_readBytes]
  · rw [length_readBytes, Nat.add_zero]

theorem length_plainOutput_le {c : Ctx} {y out : Bytes} (h : plainOutput C c y = some out) : out.length ≤ y.length := by
  unfold plainOutput at h
  split at h
  · unfold padRemove at h
    split at h
    · cases h
      rfl
    · simp only [Option.ite_none_left_eq_some, Option.some.injEq] at h
      obtain ⟨-, rfl⟩ := h
      exact List.length_take_le' _ _
    · cases h
      exact List.length_take_le' _ _
  · cases h
    rfl

/-- The regions that MFINAL may write: its output, and a detached tag of an encryption (44_mode_session.md R132). -/
def MfinalWrites (C : Cipher) (b l : Nat) (s : State) (x : Nat) : Prop :=
  (b ≤ x ∧ x < b + finalOutMax C s.ctx l)
    ∨ (s.ctx.mode.isAuth = true ∧ s.ctx.dir = .encrypt ∧ s.ctx.tagpl = .detached
        ∧ s.tagaddr.toNat ≤ x ∧ x < s.tagaddr.toNat + s.ctx.taglen)

/-- The state that a result leaves. -/
def leftState : Result → State
  | .ok t => t
  | .raise _ t => t

/-- What an end of MFINAL does to BUF. -/
def StoresIn (s : State) (writes : Nat → Prop) (t : State) : Prop :=
  t.buf.wf ∧ ∀ x, ¬writes x → t.buf.read x = s.buf.read x

theorem MfinalEnd.stores (hwf : s.buf.wf) (hpass : firstFault (mfinalChecks C a b l s) = none) {result : Result}
    (hend : MfinalEnd C a b l s result) : StoresIn s (MfinalWrites C b l s) (leftState result) := by
  obtain ⟨-, -, hbounds⟩ := (orderedChecks_mfinal C a b l s).none_iff.mp hpass
  rw [MfinalBoundsIllegal, ← finalOutMax_eq] at hbounds
  simp only [not_or, not_and, Nat.not_lt] at hbounds
  obtain ⟨-, hout, hdetached⟩ := hbounds
  have hdataLe : finalDataLen s.ctx l ≤ finalOutMax C s.ctx l := by unfold finalOutMax; omega
  have hstore {v : Bytes} (hlength : v.length ≤ finalOutMax C s.ctx l) {t : State}
      (ht : t.buf = s.buf.writeBytes b v) : StoresIn s (MfinalWrites C b l s) t := by
    obtain ⟨hwf', hread⟩ := writeBytes_stores hwf hlength hout
    refine ⟨by rwa [ht], fun x hx => ?_⟩
    rw [ht]
    refine hread x ?_
    by_contra hin
    exact hx (.inl (by omega))
  cases hend with
  | encryptFailed _ henc hrun =>
    refine hstore ?_ rfl
    rw [hrun, length_run, length_readBytes]
    rwa [finalDataLen_of_encrypt henc] at hdataLe
  | decryptFailed | refused | padding => exact ⟨hwf, fun _ _ => rfl⟩
  | verified _ _ hrun =>
    refine hstore ?_ rfl
    rwa [hrun, length_run, length_readBytes]
  | plainFailed hplain hrun =>
    refine hstore ?_ rfl
    rw [hrun, length_run, length_plainInput]
    simp [finalOutMax, finalDataLen_of_plain hplain]
  | plain hplain hrun hpad =>
    refine hstore ((length_plainOutput_le hpad).trans ?_) rfl
    rw [hrun, length_run, length_plainInput]
    simp [finalOutMax, finalDataLen_of_plain hplain]
  | encrypted hauth henc hrun htag =>
    next r tag =>
    have hlength : r.out.length = l := by rw [hrun, length_run, length_readBytes]
    have htaglen : tag.length ≤ s.ctx.taglen := by
      have hle := length_modeTag_le htag
      rwa [finalCtx, show r.ctx.taglen = s.ctx.taglen by rw [hrun]; exact (run_sameSession _ _ _).taglen] at hle
    rw [finalDataLen_of_encrypt henc] at hdataLe
    obtain ⟨hwfData, hreadData⟩ := writeBytes_stores hwf hlength.le (by omega : b + l ≤ Config.BUF_BYTES)
    cases hplace : s.ctx.tagpl with
    | combined =>
      have hmax : finalOutMax C s.ctx l = l + finalPadLen C s.ctx l + s.ctx.taglen := by
        simp [finalOutMax, finalDataLen_of_encrypt henc, hauth, henc, hplace]
      obtain ⟨hwfTag, hreadTag⟩ := writeBytes_stores (b := b + l) hwfData htaglen (by omega)
      simp only [leftState, writtenTagAddr, hplace]
      refine ⟨hwfTag, fun x hx => (hreadTag x ?_).trans (hreadData x ?_)⟩ <;>
      · by_contra hin
        exact hx (.inl (by omega))
    | detached =>
      obtain ⟨hwfTag, hreadTag⟩ := writeBytes_stores hwfData htaglen (hdetached hauth hplace)
      simp only [leftState, writtenTagAddr, hplace]
      refine ⟨hwfTag, fun x hx => (hreadTag x ?_).trans (hreadData x ?_)⟩ <;> by_contra hin
      · exact hx (.inr ⟨hauth, henc, hplace, by omega, by omega⟩)
      · exact hx (.inl (by omega))

end

end Sys2Proof.Proofs
end

section
/-! Noninterference: the mode context is hidden from every command outside the mode engine (10_state.md R49), and the big
registers and FLAGS from every command outside the BAU (R25). -/

namespace Sys2Proof.Proofs

open Sys2Proof.Machine Sys2Proof.Laws

/-! ## Commands that commute with an update of the state -/

/-- A result with an update of the state it leaves. -/
def mapResult (g : State → State) : Result → Result
  | .ok s => .ok (g s)
  | .raise c s => .raise c (g s)

/-- The end of a command neither reads nor writes what `g` updates. -/
structure CommutesWithEnd (g : State → State) : Prop where
  commit : ∀ s, (g s).commit = g s.commit
  takeFault : ∀ s c, (g s).takeFault c = g (s.takeFault c)

/-- The command `i` does the same on an updated state, and leaves the update. -/
def CommutesWith (g : State → State) (i : Instr) : Prop :=
  ∃ f : State → Result, (∀ s, exec i s = finish (f s)) ∧ ∀ s, f (g s) = mapResult g (f s)

theorem exec_update_of_commutes {g : State → State} (hend : CommutesWithEnd g) {i : Instr} (hi : CommutesWith g i)
    {s t : State} (hexec : exec i s = .next t) : exec i (g s) = .next (g t) := by
  obtain ⟨f, hf, hcommutes⟩ := hi
  rw [hf] at hexec ⊢
  rw [hcommutes]
  cases hresult : f s with
  | ok u =>
    rw [hresult] at hexec
    cases hexec
    exact congrArg Host.Outcome.next (hend.commit u)
  | raise c u =>
    rw [hresult] at hexec
    cases hexec
    exact congrArg Host.Outcome.next (hend.takeFault u c)

theorem mapResult_ite (g : State → State) (p : Prop) [Decidable p] (a b : Result) :
    mapResult g (if p then a else b) = if p then mapResult g a else mapResult g b :=
  apply_ite (mapResult g) p a b

/-! ## The context -/

/-- The state with another mode context. -/
def withCtx (c : Ctx) (s : State) : State := { s with ctx := c }

theorem commutesWithEnd_withCtx (c : Ctx) : CommutesWithEnd (withCtx c) := ⟨fun _ => rfl, fun _ _ => rfl⟩

section
variable (c : Ctx) (s : State)

theorem source_withCtx {r : Reg} {k k' : Nat → Result} (hk : ∀ v, k' v = mapResult (withCtx c) (k v)) :
    (withCtx c s).source r k' = mapResult (withCtx c) (s.source r k) := by
  have hread : (withCtx c s).readReg r = s.readReg r := rfl
  obtain ⟨v, hvalue, hsource⟩ | ⟨hnone, hraise⟩ := source_cases s r k
  · rw [hsource, State.source, hread, hvalue]
    exact hk v
  · rw [hraise, State.source, hread, hnone]
    rfl

theorem putBounded_withCtx (r : Reg) (v : Nat) :
    (withCtx c s).putBounded r v = mapResult (withCtx c) (s.putBounded r v) := by
  rw [State.putBounded, State.putBounded, mapResult_ite]
  rfl

theorem writeCsr_withCtx (n : Nat) (v : Word32) : (withCtx c s).writeCsr n v = withCtx c (s.writeCsr n v) := by
  unfold State.writeCsr
  split <;> rfl

end

/-- No command outside the mode engine reads or writes the context. -/
theorem commutesWith_withCtx {i : Instr} (hmoe : isMoe i = false) (c : Ctx) : CommutesWith (withCtx c) i := by
  cases i with
  | minit | maad | mproc | mfinal | mreset => nomatch hmoe
  | nop => exact ⟨.ok, fun _ => rfl, fun _ => rfl⟩
  | wcsr n v =>
    refine ⟨_, exec_wcsr n v, fun s => ?_⟩
    split
    · rfl
    · exact congrArg Result.ok (writeCsr_withCtx c s n v)
  | bldi rd imm => exact ⟨_, exec_bldi rd imm, fun _ => rfl⟩
  | bld r a l =>
    refine ⟨_, exec_bld r a l, fun s => ?_⟩
    rw [mapResult_ite, ← putBounded_withCtx]
    rfl
  | bst r a l =>
    refine ⟨_, exec_bst r a l, fun s => source_withCtx c s fun v => ?_⟩
    split <;> rfl
  | bmov rd rs1 => exact ⟨_, exec_bmov rd rs1, fun s => source_withCtx c s fun _ => rfl⟩
  | bgetw rd rs1 idx => exact ⟨_, exec_bgetw rd rs1 idx, fun s => source_withCtx c s fun _ => rfl⟩
  | bsetw rd rs1 idx =>
    refine ⟨_, exec_bsetw rd rs1 idx, fun s => source_withCtx c s fun _ => source_withCtx c s fun _ => ?_⟩
    rw [mapResult_ite, mapResult_ite, putBounded_withCtx]
    rfl
  | badd rd rs1 rs2 =>
    exact ⟨_, exec_badd rd rs1 rs2, fun s => source_withCtx c s fun _ => source_withCtx c s fun _ =>
      putBounded_withCtx c s rd _⟩
  | bsub rd rs1 rs2 =>
    refine ⟨_, exec_bsub rd rs1 rs2, fun s => source_withCtx c s fun _ => source_withCtx c s fun _ => ?_⟩
    rw [mapResult_ite]
    rfl
  | bmulw rd rs1 rs2 =>
    refine ⟨_, exec_bmulw rd rs1 rs2, fun s => source_withCtx c s fun _ => source_withCtx c s fun _ => ?_⟩
    rw [mapResult_ite, putBounded_withCtx]
    rfl
  | bmul rd rs1 rs2 =>
    exact ⟨_, exec_bmul rd rs1 rs2, fun s => source_withCtx c s fun _ => source_withCtx c s fun _ =>
      putBounded_withCtx c s rd _⟩
  | bdiv rd rs1 rs2 rs3 =>
    refine ⟨_, exec_bdiv rd rs1 rs2 rs3, fun s => source_withCtx c s fun _ => source_withCtx c s fun _ => ?_⟩
    rw [mapResult_ite]
    rfl
  | bshl rd rs1 n =>
    refine ⟨_, exec_bshl rd rs1 n, fun s => source_withCtx c s fun _ => ?_⟩
    rw [mapResult_ite]
    rfl
  | bshr rd rs1 n => exact ⟨_, exec_bshr rd rs1 n, fun s => source_withCtx c s fun _ => rfl⟩
  | band rd rs1 rs2 =>
    exact ⟨_, exec_band rd rs1 rs2, fun s => source_withCtx c s fun _ => source_withCtx c s fun _ => rfl⟩
  | bor rd rs1 rs2 =>
    exact ⟨_, exec_bor rd rs1 rs2, fun s => source_withCtx c s fun _ => source_withCtx c s fun _ => rfl⟩
  | bxor rd rs1 rs2 =>
    exact ⟨_, exec_bxor rd rs1 rs2, fun s => source_withCtx c s fun _ => source_withCtx c s fun _ => rfl⟩
  | bcmp rs1 rs2 =>
    exact ⟨_, exec_bcmp rs1 rs2, fun s => source_withCtx c s fun _ => source_withCtx c s fun _ => rfl⟩
  | bpow rd rs1 rs2 rs3 =>
    refine ⟨_, exec_bpow rd rs1 rs2 rs3, fun s => source_withCtx c s fun _ => source_withCtx c s fun _ =>
      source_withCtx c s fun _ => ?_⟩
    rw [mapResult_ite]
    rfl
  | bgcd rd rs1 rs2 =>
    exact ⟨_, exec_bgcd rd rs1 rs2, fun s => source_withCtx c s fun _ => source_withCtx c s fun _ => rfl⟩
  | binv rd rs1 rs2 =>
    refine ⟨_, exec_binv rd rs1 rs2, fun s => source_withCtx c s fun _ => source_withCtx c s fun _ => ?_⟩
    rw [mapResult_ite, mapResult_ite]
    rfl
  | bsprp rs1 rs2 =>
    refine ⟨_, exec_bsprp rs1 rs2, fun s => source_withCtx c s fun _ => source_withCtx c s fun _ => ?_⟩
    rw [mapResult_ite]
    rfl

/-- The host's view of the state has no context in it. -/
theorem hostReadAt_withCtx (C : Cipher) (s : State) (c : Ctx) (off : Nat) :
    hostReadAt C (withCtx c s) off = hostReadAt C s off := by
  have hcsr (n : Nat) : (withCtx c s).readCsr n = s.readCsr n := by
    unfold State.readCsr
    split <;> rfl
  unfold hostReadAt
  rw [hcsr]
  split
  · rfl
  · split
    · rfl
    · split <;> rfl

/-- Settles O16: the host's registers and the commands outside the mode engine never look at the context. -/
theorem modeContextIsHidden : Obligations.ModeContextIsHidden := by
  unfold Obligations.ModeContextIsHidden
  refine ⟨fun C s c off => hostReadAt_withCtx C s c off, fun i s t c hmoe hexec => ?_⟩
  have hupdate (d : Ctx) : exec i (withCtx d s) = .next (withCtx d t) :=
    exec_update_of_commutes (commutesWithEnd_withCtx d) (commutesWith_withCtx hmoe d) hexec
  have hsame : t = withCtx s.ctx t := Host.Outcome.next.inj (hexec.symm.trans (hupdate s.ctx))
  have hctx : t.ctx = (withCtx s.ctx t).ctx := congrArg State.ctx hsame
  exact ⟨hctx, hupdate c⟩

/-! ## The big registers and FLAGS -/

/-- The state with other big registers and flags. -/
def withBigRegs (R : Vector BigReg 16) (F : Flags) (s : State) : State := { s with regs := R, flags := F }

theorem commutesWithEnd_withBigRegs (R : Vector BigReg 16) (F : Flags) : CommutesWithEnd (withBigRegs R F) :=
  ⟨fun _ => rfl, fun _ _ => rfl⟩

section
variable (R : Vector BigReg 16) (F : Flags) (C : Cipher) (s : State)

theorem writeCsr_withBigRegs (n : Nat) (v : Word32) :
    (withBigRegs R F s).writeCsr n v = withBigRegs R F (s.writeCsr n v) := by
  unfold State.writeCsr
  split <;> rfl

theorem minit_withBigRegs (a l : Nat) : minit C a l (withBigRegs R F s) = mapResult (withBigRegs R F) (minit C a l s) := by
  cases hrunning : s.phase.running with
  | true => rw [minit_of_running hrunning, minit_of_running (s := withBigRegs R F s) hrunning]; rfl
  | false =>
    cases hconfig : sessionConfig C s.mcfg s.ccmAlen.toNat with
    | none =>
      rw [minit_of_config_refused hrunning hconfig, minit_of_config_refused (s := withBigRegs R F s) hrunning hconfig]
      rfl
    | some c =>
      cases hchecks : firstFault (minitChecks C a l s c) with
      | some f =>
        rw [minit_of_fault hrunning hconfig hchecks, minit_of_fault (s := withBigRegs R F s) hrunning hconfig hchecks]
        rfl
      | none =>
        cases hinit : modeInit C c (s.buf.readBytes a l) s.ccmAlen.toNat s.ccmMlen.toNat with
        | none =>
          rw [minit_of_init_failed hrunning hconfig hchecks hinit,
            minit_of_init_failed (s := withBigRegs R F s) hrunning hconfig hchecks hinit]
          rfl
        | some c' =>
          rw [minit_of_init hrunning hconfig hchecks hinit,
            minit_of_init (s := withBigRegs R F s) hrunning hconfig hchecks hinit]
          rfl

theorem maad_withBigRegs (a l : Nat) : maad C a l (withBigRegs R F s) = mapResult (withBigRegs R F) (maad C a l s) := by
  cases hchecks : firstFault (maadChecks a l s) with
  | some f => rw [maad_of_fault hchecks, maad_of_fault (s := withBigRegs R F s) hchecks]; rfl
  | none =>
    cases haad : modeAad C s.ctx (s.buf.readBytes a l) with
    | none => rw [maad_of_aad_failed hchecks haad, maad_of_aad_failed (s := withBigRegs R F s) hchecks haad]; rfl
    | some c => rw [maad_of_aad hchecks haad, maad_of_aad (s := withBigRegs R F s) hchecks haad]; rfl

theorem mproc_withBigRegs (a b l : Nat) :
    mproc C a b l (withBigRegs R F s) = mapResult (withBigRegs R F) (mproc C a b l s) := by
  cases hchecks : firstFault (mprocChecks C a b l s) with
  | some f => rw [mproc_of_fault hchecks, mproc_of_fault (s := withBigRegs R F s) hchecks]; rfl
  | none =>
    cases hok : (run C s.ctx (s.buf.readBytes a l)).ok with
    | true => rw [mproc_of_run hchecks rfl hok, mproc_of_run (s := withBigRegs R F s) hchecks rfl hok]; rfl
    | false =>
      rw [mproc_of_run_failed hchecks rfl hok, mproc_of_run_failed (s := withBigRegs R F s) hchecks rfl hok]
      rfl

@[simp] theorem withBigRegs_ctx : (withBigRegs R F s).ctx = s.ctx := rfl
@[simp] theorem withBigRegs_phase : (withBigRegs R F s).phase = s.phase := rfl
@[simp] theorem withBigRegs_buf : (withBigRegs R F s).buf = s.buf := rfl
@[simp] theorem withBigRegs_tagaddr : (withBigRegs R F s).tagaddr = s.tagaddr := rfl
@[simp] theorem receivedTag_withBigRegs (a l : Nat) : receivedTag a l (withBigRegs R F s) = receivedTag a l s := rfl

theorem finalAuth_withBigRegs (a b l : Nat) (r : RunResult) :
    finalAuth C a b l r (withBigRegs R F s) = mapResult (withBigRegs R F) (finalAuth C a b l r s) := by
  simp only [finalAuth, withBigRegs_ctx, withBigRegs_phase, withBigRegs_buf, withBigRegs_tagaddr, receivedTag_withBigRegs]
  split
  · split <;> rfl
  · split
    · rfl
    · rfl
    · rw [mapResult_ite]
      rfl

theorem mfinal_withBigRegs_of_plain {a b l : Nat} (hpass : firstFault (mfinalChecks C a b l s) = none)
    (hplain : s.ctx.mode.isAuth = false) :
    mfinal C a b l (withBigRegs R F s) = mapResult (withBigRegs R F) (mfinal C a b l s) := by
  cases hok : (run C s.ctx (plainInput C s a l)).ok with
  | false =>
    rw [mfinal_plain_failed hpass hplain rfl hok, mfinal_plain_failed (s := withBigRegs R F s) hpass hplain rfl hok]
    rfl
  | true =>
    cases hpad : plainOutput C s.ctx (run C s.ctx (plainInput C s a l)).out with
    | none =>
      rw [mfinal_plain_padding hpass hplain rfl hok hpad,
        mfinal_plain_padding (s := withBigRegs R F s) hpass hplain rfl hok hpad]
      rfl
    | some out =>
      rw [mfinal_plain_done hpass hplain rfl hok hpad, mfinal_plain_done (s := withBigRegs R F s) hpass hplain rfl hok hpad]
      rfl

theorem mfinal_withBigRegs (a b l : Nat) :
    mfinal C a b l (withBigRegs R F s) = mapResult (withBigRegs R F) (mfinal C a b l s) := by
  cases hchecks : firstFault (mfinalChecks C a b l s) with
  | some f => rw [mfinal_of_fault hchecks, mfinal_of_fault (s := withBigRegs R F s) hchecks]; rfl
  | none =>
    cases hauth : s.ctx.mode.isAuth with
    | true =>
      rw [mfinal_of_auth hchecks hauth rfl, mfinal_of_auth (s := withBigRegs R F s) hchecks hauth rfl]
      exact finalAuth_withBigRegs R F C s a b l _
    | false => exact mfinal_withBigRegs_of_plain R F C s hchecks hauth

end

/-- No command outside the BAU reads or writes a big register or a flag. -/
theorem commutesWith_withBigRegs {i : Instr} (hbau : isBau i = false) (R : Vector BigReg 16) (F : Flags) :
    CommutesWith (withBigRegs R F) i := by
  cases i with
  | nop => exact ⟨.ok, fun _ => rfl, fun _ => rfl⟩
  | wcsr n v =>
    refine ⟨_, exec_wcsr n v, fun s => ?_⟩
    split
    · rfl
    · exact congrArg Result.ok (writeCsr_withBigRegs R F s n v)
  | minit a l => exact ⟨_, exec_minit a l, fun s => minit_withBigRegs R F _ s a l⟩
  | maad a l => exact ⟨_, exec_maad a l, fun s => maad_withBigRegs R F _ s a l⟩
  | mproc a b l => exact ⟨_, exec_mproc a b l, fun s => mproc_withBigRegs R F _ s a b l⟩
  | mfinal a b l => exact ⟨_, exec_mfinal a b l, fun s => mfinal_withBigRegs R F _ s a b l⟩
  | mreset => exact ⟨fun s => .ok (mreset s), fun _ => rfl, fun _ => rfl⟩
  | bldi | bld | bst | bmov | bgetw | bsetw | badd | bsub | bmulw | bmul | bdiv | bshl | bshr | band | bor | bxor | bcmp
  | bpow | bgcd | binv | bsprp => nomatch hbau

/-- Settles O15: control and mode-engine commands commute with an update of the big registers and FLAGS. -/
theorem otherCommandsIgnoreBigRegisters : Obligations.OtherCommandsIgnoreBigRegisters := by
  unfold Obligations.OtherCommandsIgnoreBigRegisters
  intro i s t R F hbau hexec
  have hupdate (R : Vector BigReg 16) (F : Flags) : exec i (withBigRegs R F s) = .next (withBigRegs R F t) :=
    exec_update_of_commutes (commutesWithEnd_withBigRegs R F) (commutesWith_withBigRegs hbau R F) hexec
  have hsame : t = withBigRegs s.regs s.flags t := Host.Outcome.next.inj (hexec.symm.trans (hupdate s.regs s.flags))
  have hregs : t.regs = (withBigRegs s.regs s.flags t).regs := congrArg State.regs hsame
  have hflags : t.flags = (withBigRegs s.regs s.flags t).flags := congrArg State.flags hsame
  exact ⟨hregs, hflags, hupdate R F⟩

end Sys2Proof.Proofs
end

section
/-! What every command can do to the queue, the counts and the fault registers (40_control.md R90, R91, 60_exceptions.md R195),
and what the mode-engine commands leave alone. -/

namespace Sys2Proof.Proofs

open Sys2Proof.Machine Sys2Proof.Laws

/-! ## One result or one fault -/

/-- The fields that only the end of a command writes. -/
structure SameCounters (s t : State) : Prop where
  queue : t.queue = s.queue
  cmdcnt : t.cmdcnt = s.cmdcnt
  done : t.done = s.done
  err : t.err = s.err
  errcmd : t.errcmd = s.errcmd
  erridx : t.erridx = s.erridx

theorem SameCounters.refl (s : State) : SameCounters s s := ⟨rfl, rfl, rfl, rfl, rfl, rfl⟩

/-- A result of the command `i`: it raises only faults of its own list, and leaves the counters to the end. -/
inductive ExecResult (i : Instr) (s : State) : Result → Prop where
  | ok {t : State} (hsame : SameCounters s t) : ExecResult i s (.ok t)
  | raise {c : FaultCode} {t : State} (hlisted : c ∈ faultsOf i) (hsame : SameCounters s t)
    (hpre : isCompletionFault c = false → t = s) : ExecResult i s (.raise c t)

/-- A command that refuses leaves the state as it was. -/
theorem ExecResult.refused {i : Instr} {s : State} {c : FaultCode} (hlisted : c ∈ faultsOf i) :
    ExecResult i s (.raise c s) :=
  .raise hlisted (SameCounters.refl s) fun _ => rfl

/-- A completion fault may leave more behind. -/
theorem ExecResult.failed {i : Instr} {s t : State} {c : FaultCode} (hlisted : c ∈ faultsOf i) (hsame : SameCounters s t)
    (hcompletion : isCompletionFault c = true) : ExecResult i s (.raise c t) :=
  .raise hlisted hsame fun hpre => by rw [hcompletion] at hpre; nomatch hpre

section
variable (C : Cipher) (a b l : Nat) (s : State)

theorem execResult_minit : ExecResult (.minit a l) s (minit C a l s) := by
  obtain ⟨f, hf, hraise⟩ | ⟨_, -, -, -, hfailed | ⟨_, -, hok⟩⟩ := minit_cases C a l s
  · rw [hraise]
    refine .refused ?_
    simp only [faultsOf, List.mem_cons, List.not_mem_nil, or_false] at hf ⊢
    tauto
  · rw [hfailed]
    exact .failed (by simp [faultsOf]) ⟨rfl, rfl, rfl, rfl, rfl, rfl⟩ rfl
  · rw [hok]
    exact .ok ⟨rfl, rfl, rfl, rfl, rfl, rfl⟩

theorem execResult_maad : ExecResult (.maad a l) s (maad C a l s) := by
  obtain ⟨f, hf, hraise⟩ | ⟨-, hfailed | ⟨_, -, hok⟩⟩ := maad_cases C a l s
  · rw [hraise]
    refine .refused ?_
    simp only [faultsOf, List.mem_cons, List.not_mem_nil, or_false] at hf ⊢
    tauto
  · rw [hfailed]
    exact .failed (by simp [faultsOf]) ⟨rfl, rfl, rfl, rfl, rfl, rfl⟩ rfl
  · rw [hok]
    exact .ok ⟨rfl, rfl, rfl, rfl, rfl, rfl⟩

theorem execResult_mproc : ExecResult (.mproc a b l) s (mproc C a b l s) := by
  obtain ⟨f, hf, hraise⟩ | ⟨-, r, -, ⟨-, hok⟩ | ⟨-, hfailed⟩⟩ := mproc_cases C a b l s
  · rw [hraise]
    refine .refused ?_
    simp only [faultsOf, List.mem_cons, List.not_mem_nil, or_false] at hf ⊢
    tauto
  · rw [hok]
    exact .ok ⟨rfl, rfl, rfl, rfl, rfl, rfl⟩
  · rw [hfailed]
    exact .failed (by simp [faultsOf]) ⟨rfl, rfl, rfl, rfl, rfl, rfl⟩ rfl

theorem execResult_mfinal : ExecResult (.mfinal a b l) s (mfinal C a b l s) := by
  obtain ⟨f, hf, hraise⟩ | ⟨-, hend⟩ := mfinal_cases C a b l s
  · rw [hraise]
    refine .refused ?_
    simp only [faultsOf, List.mem_cons, List.not_mem_nil, or_false] at hf ⊢
    tauto
  · generalize mfinal C a b l s = result at hend ⊢
    cases hend with
    | encryptFailed | decryptFailed | plainFailed | refused | padding =>
      exact .failed (by simp [faultsOf]) ⟨rfl, rfl, rfl, rfl, rfl, rfl⟩ rfl
    | encrypted | verified | plain => exact .ok ⟨rfl, rfl, rfl, rfl, rfl, rfl⟩

theorem execResult_wcsr (n : Nat) (v : Word32) : ExecResult (.wcsr n v) s
    (match firstFault (wcsrChecks n v) with
      | some f => .raise f s
      | none => .ok (s.writeCsr n v)) := by
  split
  · next f hfault =>
    have hmem := firstFault_mem _ f hfault
    refine .refused ?_
    simp only [wcsrChecks, faultsOf, List.mem_cons, Prod.mk.injEq, List.not_mem_nil, or_false] at hmem ⊢
    tauto
  · rw [writeCsr_frame]
    exact .ok ⟨rfl, rfl, rfl, rfl, rfl, rfl⟩

end

theorem execResult_of_bauResult {i : Instr} {s : State} {result : Result}
    (h : BauResult i s result) : ExecResult i s result := by
  cases h with
  | raise hfault => exact .refused hfault
  | ok => exact .ok ⟨rfl, rfl, rfl, rfl, rfl, rfl⟩

/-- Every command ends in one of the results above. -/
theorem exec_cases (i : Instr) (s : State) : ∃ result, exec i s = finish result ∧ ExecResult i s result := by
  cases hbau : isBau i with
  | true =>
    obtain ⟨result, hexec, hresult⟩ := exec_bau_cases hbau s
    exact ⟨result, hexec, execResult_of_bauResult hresult⟩
  | false =>
    cases i with
    | nop => exact ⟨.ok s, rfl, .ok (SameCounters.refl s)⟩
    | wcsr n v => exact ⟨_, exec_wcsr n v s, execResult_wcsr s n v⟩
    | minit a l => exact ⟨_, exec_minit a l s, execResult_minit _ a l s⟩
    | maad a l => exact ⟨_, exec_maad a l s, execResult_maad _ a l s⟩
    | mproc a b l => exact ⟨_, exec_mproc a b l s, execResult_mproc _ a b l s⟩
    | mfinal a b l => exact ⟨_, exec_mfinal a b l s, execResult_mfinal _ a b l s⟩
    | mreset => exact ⟨.ok (mreset s), rfl, .ok ⟨rfl, rfl, rfl, rfl, rfl, rfl⟩⟩
    | bldi | bld | bst | bmov | bgetw | bsetw | badd | bsub | bmulw | bmul | bdiv | bshl | bshr | band | bor | bxor | bcmp
    | bpow | bgcd | binv | bsprp => nomatch hbau

/-- Settles O9: the end of a command counts it, or enters its one fault. -/
theorem execCompletesOrTakesOneFault : Obligations.ExecCompletesOrTakesOneFault := by
  unfold Obligations.ExecCompletesOrTakesOneFault
  intro i s w rest hqueue
  obtain ⟨result, hexec, hresult⟩ := exec_cases i s
  cases hresult with
  | @ok t hsame =>
    refine ⟨_, hexec, .inl ⟨?_, ?_, ?_, hsame.err, hsame.errcmd, hsame.erridx⟩⟩
    · rw [commit_queue, hsame.queue, hqueue, List.tail_cons]
    · rw [commit_cmdcnt, hsame.cmdcnt]
    · rw [commit_done, hsame.done, hsame.queue, hqueue, List.tail_cons]
  | @raise c t hlisted hsame =>
    refine ⟨_, hexec, .inr ⟨c, hlisted, rfl, hsame.cmdcnt, hsame.done, rfl, ?_, hsame.cmdcnt⟩⟩
    rw [takeFault_errcmd, hsame.queue, hqueue, List.headD_cons]

/-- Settles O10: a fault that is no completion fault is raised in the state the command started in. -/
theorem preCheckFaultsChangeNothingElse : Obligations.PreCheckFaultsChangeNothingElse := by
  unfold Obligations.PreCheckFaultsChangeNothingElse
  intro i s t w rest c hqueue hnone hexec herr hpre
  obtain ⟨result, hresult, hcases⟩ := exec_cases i s
  rw [hresult] at hexec
  cases hcases with
  | ok hsame =>
    cases hexec
    rw [commit_err, hsame.err, hnone] at herr
    nomatch herr
  | raise _ _ hleft =>
    cases hexec
    cases herr
    rw [hleft hpre, takeFault_eq_faulted _ hqueue]

/-! ## The mode engine's frame -/

/-- The fields that no mode-engine command writes. -/
structure MoeFrame (s t : State) : Prop where
  mcfg : t.mcfg = s.mcfg
  tagaddr : t.tagaddr = s.tagaddr
  ccmMlen : t.ccmMlen = s.ccmMlen
  ccmAlen : t.ccmAlen = s.ccmAlen
  cmdlat : t.cmdlat = s.cmdlat
  enables : t.enables = s.enables
  ovf : t.ovf = s.ovf
  host : t.host = s.host
  rdata : t.rdata = s.rdata
  regs : t.regs = s.regs

/-- A session's own fields and BUF are all that an update of the session changes. -/
theorem moeFrame_withSession (s : State) (m : Memory) (c : Ctx) (p : PhaseReg) (n : Nat) :
    MoeFrame s ({ s with buf := m }.withSession c p n) := ⟨rfl, rfl, rfl, rfl, rfl, rfl, rfl, rfl, rfl, rfl⟩

theorem MoeFrame.refl (s : State) : MoeFrame s s := ⟨rfl, rfl, rfl, rfl, rfl, rfl, rfl, rfl, rfl, rfl⟩

/-- The end of a command writes none of them either. -/
theorem MoeFrame.of_finish {s t : State} {result : Result} (h : MoeFrame s (leftState result))
    (hfinish : finish result = .next t) : MoeFrame s t := by
  cases result <;> cases hfinish <;>
    exact ⟨h.mcfg, h.tagaddr, h.ccmMlen, h.ccmAlen, h.cmdlat, h.enables, h.ovf, h.host, h.rdata, h.regs⟩

section
variable (C : Cipher) (a b l : Nat) (s : State)

theorem moeFrame_minit : MoeFrame s (leftState (minit C a l s)) ∧ (leftState (minit C a l s)).buf = s.buf := by
  obtain ⟨f, -, hraise⟩ | ⟨_, -, -, -, hfailed | ⟨_, -, hok⟩⟩ := minit_cases C a l s
  · rw [hraise]
    exact ⟨MoeFrame.refl s, rfl⟩
  · rw [hfailed]
    exact ⟨moeFrame_withSession s s.buf _ _ _, rfl⟩
  · rw [hok]
    exact ⟨moeFrame_withSession s s.buf _ _ _, rfl⟩

theorem moeFrame_maad : MoeFrame s (leftState (maad C a l s)) ∧ (leftState (maad C a l s)).buf = s.buf := by
  obtain ⟨f, -, hraise⟩ | ⟨-, hfailed | ⟨_, -, hok⟩⟩ := maad_cases C a l s
  · rw [hraise]
    exact ⟨MoeFrame.refl s, rfl⟩
  · rw [hfailed]
    exact ⟨⟨rfl, rfl, rfl, rfl, rfl, rfl, rfl, rfl, rfl, rfl⟩, rfl⟩
  · rw [hok]
    exact ⟨⟨rfl, rfl, rfl, rfl, rfl, rfl, rfl, rfl, rfl, rfl⟩, rfl⟩

theorem moeFrame_mproc : MoeFrame s (leftState (mproc C a b l s)) := by
  obtain ⟨f, -, hraise⟩ | ⟨-, r, -, ⟨-, hok⟩ | ⟨-, hfailed⟩⟩ := mproc_cases C a b l s
  · rw [hraise]
    exact MoeFrame.refl s
  · rw [hok]
    exact moeFrame_withSession s _ _ _ _
  · rw [hfailed]
    exact moeFrame_withSession s _ _ _ _

theorem moeFrame_mfinal : MoeFrame s (leftState (mfinal C a b l s)) := by
  obtain ⟨f, -, hraise⟩ | ⟨-, hend⟩ := mfinal_cases C a b l s
  · rw [hraise]
    exact MoeFrame.refl s
  · generalize mfinal C a b l s = result at hend ⊢
    cases hend with
    | encryptFailed | decryptFailed | plainFailed | refused | padding | encrypted | verified | plain =>
      exact moeFrame_withSession s _ _ _ _

/-- MPROC writes only its output region. -/
theorem mproc_read_of_outside (hwf : s.buf.wf) {x : Nat} (hx : x < b ∨ b + l ≤ x) :
    (leftState (mproc C a b l s)).buf.read x = s.buf.read x := by
  obtain ⟨f, -, hraise⟩ | ⟨hpass, r, hrun, ⟨-, hok⟩ | ⟨-, hfailed⟩⟩ := mproc_cases C a b l s
  · rw [hraise]
    rfl
  · rw [hok]
    exact (mproc_stores hwf hpass hrun _).2 x hx
  · rw [hfailed]
    exact (mproc_stores hwf hpass hrun _).2 x hx

/-- MFINAL writes only the regions it may write. -/
theorem mfinal_read_of_outside (hwf : s.buf.wf) {x : Nat} (hx : ¬MfinalWrites C b l s x) :
    (leftState (mfinal C a b l s)).buf.read x = s.buf.read x := by
  obtain ⟨f, -, hraise⟩ | ⟨hpass, hend⟩ := mfinal_cases C a b l s
  · rw [hraise]
    rfl
  · exact (hend.stores hwf hpass).2 x hx

end

/-- The end of a command leaves BUF alone. -/
theorem buf_of_finish {t : State} {result : Result} (h : finish result = .next t) : t.buf = (leftState result).buf := by
  cases result <;> cases h <;> rfl

theorem moeFrame_of_exec {i : Instr} (hmoe : isMoe i = true) {s t : State} (hexec : exec i s = .next t) : MoeFrame s t := by
  cases i with
  | minit a l => exact (moeFrame_minit _ a l s).1.of_finish hexec
  | maad a l => exact (moeFrame_maad _ a l s).1.of_finish hexec
  | mproc a b l => exact (moeFrame_mproc _ a b l s).of_finish hexec
  | mfinal a b l => exact (moeFrame_mfinal _ a b l s).of_finish hexec
  | mreset =>
    cases hexec
    exact ⟨rfl, rfl, rfl, rfl, rfl, rfl, rfl, rfl, rfl, rfl⟩
  | nop | wcsr | bldi | bld | bst | bmov | bgetw | bsetw | badd | bsub | bmulw | bmul | bdiv | bshl | bshr | band | bor
  | bxor | bcmp | bpow | bgcd | binv | bsprp => nomatch hmoe

/-- Settles O17, from the frame of each command and the regions MPROC and MFINAL write. -/
theorem modeEngineStoresOnlyItsOutput : Obligations.ModeEngineStoresOnlyItsOutput := by
  unfold Obligations.ModeEngineStoresOnlyItsOutput
  intro s t a b l hwf
  refine ⟨fun hexec => ?_, fun hexec x hx => ?_, fun hexec x hx htag => ?_, fun i hmoe hexec => ?_⟩
  · obtain hexec | hexec | hexec := hexec
    · exact (buf_of_finish hexec).trans (moeFrame_minit _ a l s).2
    · exact (buf_of_finish hexec).trans (moeFrame_maad _ a l s).2
    · cases hexec
      rfl
  · rw [buf_of_finish hexec]
    exact mproc_read_of_outside _ a b l s hwf hx
  · rw [buf_of_finish hexec]
    refine mfinal_read_of_outside _ a b l s hwf ?_
    rintro (⟨hle, hlt⟩ | ⟨hauth, henc, hplace, hle, hlt⟩)
    · omega
    · have := htag ⟨hauth, henc, hplace⟩
      omega
  · have hframe := moeFrame_of_exec hmoe hexec
    exact ⟨hframe.mcfg, hframe.tagaddr, hframe.ccmMlen, hframe.ccmAlen, hframe.cmdlat, hframe.enables, hframe.ovf,
      hframe.host, hframe.rdata⟩

end Sys2Proof.Proofs
end

section
/-! The host port: CTRL and the soft reset, the CSRs, the order of events, the engine's step and the reset state
(10_state.md sections 5 and 6, 20_memory.md section 4, 40_control.md R89, 70_reset_and_hazards.md). -/

namespace Sys2Proof.Proofs

open Sys2Proof.Machine Sys2Proof.Laws

/-! ## CTRL -/

@[simp] theorem hostWriteAt_ctrl (s : State) (v : Word32) : hostWriteAt s 0x0C v = writeCtrl v s := rfl

/-- The three enables in bits 1, 2 and 3 of CTRL, the other bits 0 (10_state.md R32). -/
theorem ctrlWord_fields (s : State) :
    bits (ctrlWord s) 0 0 = 0 ∧ bits (ctrlWord s) 1 1 = s.enables.done.toNat ∧ bits (ctrlWord s) 2 2 = s.enables.err.toNat
      ∧ bits (ctrlWord s) 3 3 = s.enables.ovf.toNat ∧ bits (ctrlWord s) 31 4 = 0 := by
  have hdone := s.enables.done.toNat_lt
  have herr := s.enables.err.toNat_lt
  have hovf := s.enables.ovf.toNat_lt
  unfold ctrlWord
  refine ⟨?_, ?_, ?_, ?_, ?_⟩ <;> rw [bits_ofNat _ (by decide) (by decide)] <;> omega

/-- Settles O56, from the fields of CTRL and the two cases of a write to it. -/
theorem ctrlAndSoftReset : Obligations.CtrlAndSoftReset := by
  unfold Obligations.CtrlAndSoftReset
  intro C s v
  obtain ⟨hsrst, hdone, herr, hovf, hrest⟩ := ctrlWord_fields s
  rw [hostReadAt_ctrl, hostWriteAt_ctrl]
  refine ⟨fun h => ?_, fun h => if_pos h, hsrst, hdone.trans (toNat_eq_ite_of_iff Iff.rfl),
    herr.trans (toNat_eq_ite_of_iff Iff.rfl), hovf.trans (toNat_eq_ite_of_iff Iff.rfl), hrest⟩
  exact if_neg (by omega)

/-! ## The CSRs -/

/-- The fields of PHASE (10_state.md R45). -/
theorem phaseWord_fields (p : PhaseReg) :
    bits p.word 2 0 = p.ph.code ∧ bits p.word 3 3 = p.aadDone.toNat ∧ bits p.word 4 4 = p.tagOk.toNat
      ∧ bits p.word 5 5 = p.authFail.toNat ∧ bits p.word 6 6 = p.cipherFail.toNat ∧ bits p.word 7 7 = p.padFail.toNat
      ∧ bits p.word 11 8 = p.smode.code ∧ bits p.word 12 12 = p.sdir.code ∧ bits p.word 31 13 = 0 := by
  have hph : p.ph.code < 8 := by cases p.ph <;> decide
  have haad := p.aadDone.toNat_lt
  have htag := p.tagOk.toNat_lt
  have hauth := p.authFail.toNat_lt
  have hcipher := p.cipherFail.toNat_lt
  have hpad := p.padFail.toNat_lt
  have hmode : p.smode.code < 16 := by cases p.smode <;> decide
  have hdir : p.sdir.code < 2 := by cases p.sdir <;> decide
  unfold PhaseReg.word
  refine ⟨?_, ?_, ?_, ?_, ?_, ?_, ?_, ?_, ?_⟩ <;> rw [bits_ofNat _ (by decide) (by decide)] <;> omega

/-- The fields of FLAGS (10_state.md R28). -/
theorem flagsWord_fields (f : Flags) :
    bits f.word 0 0 = f.z.toNat ∧ bits f.word 1 1 = f.lt.toNat ∧ bits f.word 2 2 = f.eq.toNat
      ∧ bits f.word 3 3 = f.gt.toNat ∧ bits f.word 4 4 = f.nr.toNat ∧ bits f.word 5 5 = f.pp.toNat
      ∧ bits f.word 31 6 = 0 := by
  have hz := f.z.toNat_lt
  have hlt := f.lt.toNat_lt
  have heq := f.eq.toNat_lt
  have hgt := f.gt.toNat_lt
  have hnr := f.nr.toNat_lt
  have hpp := f.pp.toNat_lt
  unfold Flags.word
  refine ⟨?_, ?_, ?_, ?_, ?_, ?_, ?_⟩ <;> rw [bits_ofNat _ (by decide) (by decide)] <;> omega

theorem validBits_lt (rs : List BigReg) : validBits rs < 2 ^ rs.length := by
  induction rs with
  | nil => decide
  | cons r rs ih =>
    have hr := r.valid.toNat_lt
    rw [validBits, List.length_cons, Nat.pow_succ]
    omega

/-- Bit `k` is the valid bit of register `k`. -/
theorem validBits_div_two_pow (rs : List BigReg) {k : Nat} (hk : k < rs.length) :
    validBits rs / 2 ^ k % 2 = rs[k].valid.toNat := by
  induction rs generalizing k with
  | nil => nomatch hk
  | cons r rs ih =>
    have hr := r.valid.toNat_lt
    cases k with
    | zero =>
      rw [validBits, Nat.pow_zero, Nat.div_one, List.getElem_cons_zero]
      omega
    | succ k =>
      have hhalf : (r.valid.toNat + 2 * validBits rs) / 2 = validBits rs := by omega
      rw [validBits, Nat.pow_succ', ← Nat.div_div_eq_div_mul, hhalf, List.getElem_cons_succ]
      exact ih (Nat.lt_of_succ_lt_succ hk)

/-- The fields of BVALID (10_state.md R46). -/
theorem bvalidWord_fields (s : State) :
    (∀ r : Reg, bits (bvalidWord s) r.val r.val = s.regs[r.val].valid.toNat) ∧ bits (bvalidWord s) 31 16 = 0 := by
  have hlength : s.regs.toList.length = 16 := by simp
  refine ⟨fun r => ?_, ?_⟩
  · have hr : r.val < s.regs.toList.length := by rw [hlength]; exact r.isLt
    rw [bvalidWord, bits_ofNat _ (by omega) (Nat.le_refl _), Nat.add_sub_cancel_left, Nat.pow_one,
      validBits_div_two_pow _ hr, Vector.getElem_toList]
  · have hlt := validBits_lt s.regs.toList
    rw [hlength] at hlt
    rw [bvalidWord, bits_ofNat _ (by decide) (by decide), Nat.div_eq_of_lt hlt, Nat.zero_mod]

/-- Settles O60, from the fields of the three packed CSRs. -/
theorem csrWindow : Obligations.CsrWindow := by
  unfold Obligations.CsrWindow
  intro C s v
  obtain ⟨hph, haad, htag, hauth, hcipher, hpad, hmode, hdir, hphase⟩ := phaseWord_fields s.phase
  obtain ⟨hz, hlt, heq, hgt, hnr, hpp, hflags⟩ := flagsWord_fields s.flags
  obtain ⟨hvalid, hbvalid⟩ := bvalidWord_fields s
  refine ⟨hostReadAt_csr C s (n := 0) (by decide), hostReadAt_csr C s (n := 1) (by decide),
    hostReadAt_csr C s (n := 2) (by decide), hostReadAt_csr C s (n := 3) (by decide),
    hostReadAt_csr C s (n := 4) (by decide), ?_, haad, htag, hauth, hcipher, hpad, hmode, hdir, hphase,
    hz, hlt, heq, hgt, hnr, hpp, hflags, hvalid, hbvalid, fun n hn => ?_⟩
  · exact hph.trans (by cases s.phase.ph <;> rfl)
  · refine hostWriteAt_of_not_writable s v (by omega) ?_
    simp only [List.mem_cons, List.not_mem_nil, or_false]
    omega

/-! ## One event -/

theorem popHost_of_cons {s : State} {e : HostEvent} {es : List HostEvent} (h : s.host = e :: es) :
    s.popHost = { s with host := es } := by rw [State.popHost, h, List.tail_cons]

/-- Bits 1:0 of an address are ignored (20_memory.md R61). -/
theorem wordOffset_eq (a : HostAddr) : wordOffset a = a.toNat - a.toNat % 4 := by
  unfold wordOffset
  omega

/-- The host's own list is no register. -/
theorem hostReadAt_withHost (C : Cipher) (s : State) (es : List HostEvent) (off : Nat) :
    hostReadAt C { s with host := es } off = hostReadAt C s off := rfl

section
variable {s : State} {es : List HostEvent}

theorem step_of_no_host (h : s.host = []) : step s = engineStep s := by rw [step, h]

theorem step_of_engine (h : s.host = .engine :: es) : step s = engineStep { s with host := es } := by
  rw [step, h, popHost_of_cons h]

theorem step_of_read {a : HostAddr} (h : s.host = .read a :: es) :
    step s = .next (hostRead Config.cipher a { s with host := es }) := by
  rw [step, h, popHost_of_cons h]

theorem step_of_write {a : HostAddr} {v : Word32} (h : s.host = .write a v :: es) :
    step s = .next (hostWrite a v { s with host := es }) := by
  rw [step, h, popHost_of_cons h]

end

/-- Settles O59. -/
theorem hostAccessIsOneEvent : Obligations.HostAccessIsOneEvent := by
  unfold Obligations.HostAccessIsOneEvent
  intro s a v es
  refine ⟨fun h => ?_, fun h => ?_⟩
  · rw [step_of_read h, hostRead, wordOffset_eq, hostReadAt_withHost]
  · rw [step_of_write h, hostWrite, wordOffset_eq]

/-! ## The engine's turn -/

theorem engineStep_of_empty {s : State} (h : s.queue = []) : engineStep s = .next s := by
  rw [engineStep, fetch, h]

theorem engineStep_of_decode {s : State} {w : Word64} {rest : List Word64} {i : Instr} (hqueue : s.queue = w :: rest)
    (hdecode : decode w = .ok i) : engineStep s = exec i s := by
  simp only [engineStep, fetch, hqueue, hdecode]

theorem engineStep_of_decode_error {s : State} {w : Word64} {rest : List Word64} {c : FaultCode}
    (hqueue : s.queue = w :: rest) (hdecode : decode w = .error c) : engineStep s = finish (.raise c s) := by
  simp only [engineStep, fetch, hqueue, hdecode]

/-- Settles O1, by what the engine finds at the head of the queue. -/
theorem stepRunsDecodedCommand : Obligations.StepRunsDecodedCommand := by
  unfold Obligations.StepRunsDecodedCommand
  refine ⟨fun s w rest i hqueue hdecode => ⟨fun hhost => ?_, fun es hhost => ?_⟩,
    fun s w rest c hqueue hhost hdecode => step_of_decode_error hqueue hhost hdecode, fun s hqueue hhost => ?_⟩
  · rw [step_of_no_host hhost, engineStep_of_decode hqueue hdecode]
  · rw [step_of_engine hhost]
    exact engineStep_of_decode hqueue hdecode
  · rw [step_of_no_host hhost, engineStep_of_empty hqueue]

/-! ## Reset -/

theorem capacity_pos : 0 < Config.CAPACITY := Nat.two_pow_pos _

theorem phaseLegal_zero : PhaseLegal PhaseReg.zero := by
  unfold PhaseLegal
  decide

/-- The power-on state with canonical contents of BUF satisfies the invariant. -/
theorem inv_powerOn {bufInit : Memory} (hwf : bufInit.wf) : Inv (State.powerOn bufInit) where
  regs r := by
    rw [powerOn_regs, Vector.getElem_replicate]
    exact capacity_pos
  queue := ⟨Nat.zero_le _, fun _ => rfl⟩
  csrs := ⟨Nat.two_pow_pos 14, Nat.two_pow_pos 16, Nat.zero_le _⟩
  buf := hwf
  phase := phaseLegal_zero
  copies := ⟨rfl, rfl⟩
  session hrunning := nomatch hrunning

/-- Settles O7. -/
theorem resetSatisfiesInvariant : Obligations.ResetSatisfiesInvariant := by
  unfold Obligations.ResetSatisfiesInvariant
  refine ⟨fun bufInit => inv_powerOn, inv_powerOn ⟨List.Pairwise.nil, fun c hc => ?_⟩⟩
  nomatch hc

end Sys2Proof.Proofs
end

section
/-! Zero padding (49_padding.md R173, R174). -/

namespace Sys2Proof.Proofs

open Sys2Proof.Machine Sys2Proof.Laws

theorem padLen_zero (bs l : Nat) : padLen bs .zero l = (bs - l % bs) % bs := rfl

theorem padAdd_zero (bs : Nat) (x : Bytes) :
    padAdd bs .zero x = x ++ List.replicate ((bs - x.length % bs) % bs) 0#8 := rfl

theorem length_padAdd_zero (bs : Nat) (x : Bytes) :
    (padAdd bs .zero x).length = x.length + (bs - x.length % bs) % bs := by
  rw [padAdd_zero, List.length_append, List.length_replicate]

/-- The number of bytes that removal takes away: the zero bytes at the end of `y`, at most `bs - 1` of them. -/
def trailingZeros (bs : Nat) (y : Bytes) : Nat := ((y.reverse.take (bs - 1)).takeWhile fun b => b == 0#8).length

theorem padRemove_zero (bs : Nat) (y : Bytes) :
    padRemove bs .zero y = some (y.take (y.length - trailingZeros bs y)) := rfl

section
variable (bs : Nat) (y : Bytes)

theorem trailingZeros_eq_findIdx :
    trailingZeros bs y = (y.reverse.take (bs - 1)).findIdx fun b => !(b == 0#8) := by
  rw [trailingZeros, List.takeWhile_eq_take_findIdx_not, List.length_take, Nat.min_eq_left List.findIdx_le_length]

theorem trailingZeros_le : trailingZeros bs y ≤ bs - 1 := by
  rw [trailingZeros_eq_findIdx]
  exact List.findIdx_le_length.trans ((List.length_take ..).trans_le (Nat.min_le_left ..))

/-- Every byte taken away is 0. -/
theorem getElem?_of_lt_trailingZeros {j : Nat} (hj : j < trailingZeros bs y) : y[y.length - 1 - j]? = some 0#8 := by
  have hle := trailingZeros_le bs y
  rw [trailingZeros_eq_findIdx] at hj
  have hlength := hj.trans_le List.findIdx_le_length
  have hzero := List.not_of_lt_findIdx hj
  rw [List.length_take, List.length_reverse] at hlength
  rw [← List.getElem?_reverse (by omega), List.getElem?_eq_getElem (by rw [List.length_reverse]; omega)]
  simpa using hzero

/-- The byte before those taken away is not 0, unless they are `bs - 1`. -/
theorem getElem?_trailingZeros (hlength : bs ≤ y.length) (hlt : trailingZeros bs y < bs - 1) :
    y[y.length - 1 - trailingZeros bs y]? ≠ some 0#8 := by
  have htake : (y.reverse.take (bs - 1)).length = bs - 1 := by
    rw [List.length_take, List.length_reverse]
    omega
  rw [trailingZeros_eq_findIdx] at hlt ⊢
  have hnonzero := List.findIdx_getElem (w := hlt.trans_eq htake.symm)
  rw [← List.getElem?_reverse (by omega), List.getElem?_eq_getElem (by rw [List.length_reverse]; omega)]
  simpa using hnonzero

end

/-- Behind a last byte other than 0, the run of zeros is the padding. -/
theorem trailingZeros_append_replicate {bs n : Nat} {x : Bytes} (hn : n ≤ bs - 1) (hlast : ∀ b ∈ x.getLast?, b ≠ 0#8) :
    trailingZeros bs (x ++ List.replicate n 0#8) = n := by
  have hzeros : ∀ b ∈ List.replicate n 0#8, (b == 0#8) = true := fun b hb => beq_iff_eq.mpr (List.eq_of_mem_replicate hb)
  have hstop : ((x.reverse.take (bs - 1 - n)).takeWhile fun b => b == 0#8) = [] := by
    rw [← List.head?_eq_none_iff, List.head?_takeWhile, List.head?_take, Option.filter_eq_none_iff]
    intro b hb
    split at hb
    · nomatch hb
    · rw [List.head?_reverse] at hb
      simpa using hlast b hb
  rw [trailingZeros, List.reverse_append, List.reverse_replicate, List.take_append, List.length_replicate,
    List.take_of_length_le (by rwa [List.length_replicate]), List.takeWhile_append_of_pos hzeros, hstop, List.append_nil,
    List.length_replicate]

/-- Removal undoes the addition of zero padding to a string that does not end in 0. -/
theorem padRemove_padAdd_zero {bs : Nat} {x : Bytes} (hbs : 0 < bs) (hlast : ∀ b ∈ x.getLast?, b ≠ 0#8) :
    padRemove bs .zero (padAdd bs .zero x) = some x := by
  have hlt := Nat.mod_lt (bs - x.length % bs) hbs
  rw [padRemove_zero, length_padAdd_zero, padAdd_zero, trailingZeros_append_replicate (by omega) hlast,
    Nat.add_sub_cancel, List.take_left]

/-- Settles O49, from the run of zeros that removal takes away. -/
theorem zeroPaddingRoundTrip : Obligations.ZeroPaddingRoundTrip := by
  unfold Obligations.ZeroPaddingRoundTrip
  intro bs x y hbs
  refine ⟨?_, fun haligned => ?_, padRemove_padAdd_zero (by omega), padLen_zero bs _, padAdd_zero bs x, fun hlength =>
    ⟨trailingZeros bs y, trailingZeros_le bs y, padRemove_zero bs y, fun j => getElem?_of_lt_trailingZeros bs y,
      getElem?_trailingZeros bs y hlength⟩⟩
  · rw [length_padAdd_zero]
    obtain rfl | rfl := hbs <;> omega
  · rw [padAdd_zero, haligned, Nat.sub_zero, Nat.mod_self, List.replicate_zero, List.append_nil]

end Sys2Proof.Proofs
end

section
/-! The invariant, step by step: the end of a command, the host's events, and each command. -/

namespace Sys2Proof.Machine

open Sys2Proof.Laws Sys2Proof.Proofs

/-! ## The end of a command -/

theorem Inv.commit {s : State} (h : Inv s) : Inv s.commit where
  regs := h.regs
  queue := by
    obtain ⟨hlength, hempty⟩ := h.queue
    refine ⟨?_, fun herr => ?_⟩
    · rw [commit_queue, List.length_tail]
      omega
    · rw [commit_queue, hempty herr, List.tail_nil]
  csrs := h.csrs
  buf := h.buf
  phase := h.phase
  copies := h.copies
  session := h.session

theorem Inv.takeFault {s : State} (h : Inv s) (c : FaultCode) : Inv (s.takeFault c) :=
  ⟨h.regs, ⟨Nat.zero_le _, fun _ => rfl⟩, h.csrs, h.buf, h.phase, h.copies, h.session⟩

/-- It is enough that the invariant holds of what the command leaves before its end. -/
theorem Inv.of_finish {result : Result} {t : State} (h : Inv (leftState result)) (hfinish : finish result = .next t) :
    Inv t := by
  cases result with
  | ok s =>
    cases hfinish
    exact h.commit
  | raise c s =>
    cases hfinish
    exact h.takeFault c

/-! ## The host's events -/

section
variable {s : State} (h : Inv s)
include h

theorem Inv.withHost (es : List HostEvent) : Inv { s with host := es } :=
  ⟨h.regs, h.queue, h.csrs, h.buf, h.phase, h.copies, h.session⟩

theorem Inv.hostRead (C : Cipher) (a : HostAddr) : Inv (hostRead C a s) :=
  ⟨h.regs, h.queue, h.csrs, h.buf, h.phase, h.copies, h.session⟩

theorem Inv.softReset : Inv (softReset s) :=
  have hpowerOn := inv_powerOn h.buf
  ⟨hpowerOn.regs, hpowerOn.queue, hpowerOn.csrs, hpowerOn.buf, hpowerOn.phase, hpowerOn.copies, hpowerOn.session⟩

theorem Inv.writeCtrl (v : Word32) : Inv (writeCtrl v s) := by
  unfold Machine.writeCtrl
  split
  · exact h.softReset
  · exact ⟨h.regs, h.queue, h.csrs, h.buf, h.phase, h.copies, h.session⟩

theorem Inv.writeStatus (v : Word32) : Inv (writeStatus v s) := by
  obtain ⟨hlength, hempty⟩ := h.queue
  rw [writeStatus_eq]
  refine ⟨h.regs, ⟨hlength, fun herr => hempty ?_⟩, h.csrs, h.buf, h.phase, h.copies, h.session⟩
  rintro hnone
  rw [hnone, ite_self] at herr
  exact herr rfl

theorem Inv.pushCommand (w : Word64) : Inv (pushCommand w s) := by
  unfold Machine.pushCommand
  split
  · next hroom =>
    obtain ⟨herr, hlength⟩ := hroom
    refine ⟨h.regs, ⟨?_, fun hfault => absurd herr hfault⟩, h.csrs, h.buf, h.phase, h.copies, h.session⟩
    rw [List.length_append, List.length_singleton]
    exact hlength
  · exact ⟨h.regs, h.queue, h.csrs, h.buf, h.phase, h.copies, h.session⟩

/-- A write to the window keeps BUF canonical: the offset is that of a whole word. -/
theorem Inv.hostWriteAt {off : Nat} (haligned : off % 4 = 0) (v : Word32) : Inv (hostWriteAt s off v) := by
  unfold Machine.hostWriteAt
  split
  · split
    · next hin =>
      have hbuf : off - 0x10000 + (windowBytes v).length ≤ Config.BUF_BYTES := by
        rw [length_windowBytes]
        unfold Config.BUF_BYTES at hin ⊢
        omega
      exact ⟨h.regs, h.queue, h.csrs, writeBytes_wf _ _ _ h.buf hbuf, h.phase, h.copies, h.session⟩
    · exact h
  · split
    · exact h.writeCtrl v
    · exact h.writeStatus v
    · exact ⟨h.regs, h.queue, h.csrs, h.buf, h.phase, h.copies, h.session⟩
    · exact h.pushCommand _
    · exact h

theorem Inv.hostWrite (a : HostAddr) (v : Word32) : Inv (hostWrite a v s) :=
  h.hostWriteAt (Nat.mul_mod_left ..) v

end

/-! ## The BAU commands and the control commands -/

theorem Inv.of_bauResult {i : Instr} {s : State} {result : Result} (h : Inv s) (hwf : i.wellFormed = true)
    (hresult : BauResult i s result) : Inv (leftState result) := by
  cases hresult with
  | raise => exact h
  | ok heffect =>
    exact ⟨heffect.bounded hwf h.regs, h.queue, h.csrs, heffect.wf h.buf, h.phase, h.copies, h.session⟩

/-- The result of WCSR (40_control.md R94). -/
def wcsrResult (n : Nat) (v : Word32) (s : State) : Result :=
  match firstFault (wcsrChecks n v) with
  | some f => .raise f s
  | none => .ok (s.writeCsr n v)

/-- The reserved bits of the CSRs stay 0: a value that sets one is refused. -/
theorem Inv.of_wcsr {s : State} (h : Inv s) (n : Nat) (v : Word32) : Inv (leftState (wcsrResult n v s)) := by
  obtain ⟨hmcfg, htagaddr, houtlen⟩ := h.csrs
  unfold wcsrResult
  split
  · exact h
  · next hpass =>
    simp only [firstFault_eq_none, wcsrChecks, List.forall_mem_cons, List.not_mem_nil, Bool.and_eq_false_imp, beq_iff_eq,
      bne_eq_false_iff_eq] at hpass
    obtain ⟨-, hlegalMcfg, hlegalTagaddr, -⟩ := hpass
    match n with
    | 0 =>
      have hlt := (bits_31_eq_zero_iff v (by decide)).mp (hlegalMcfg rfl)
      exact ⟨h.regs, h.queue, ⟨hlt, htagaddr, houtlen⟩, h.buf, h.phase, h.copies, h.session⟩
    | 1 =>
      have hlt := (bits_31_eq_zero_iff v (by decide)).mp (hlegalTagaddr rfl)
      exact ⟨h.regs, h.queue, ⟨hmcfg, hlt, houtlen⟩, h.buf, h.phase, h.copies, h.session⟩
    | 2 | 3 | _ + 4 => exact ⟨h.regs, h.queue, h.csrs, h.buf, h.phase, h.copies, h.session⟩

/-! ## The phases of a session -/

/-- A session just started. -/
theorem phaseLegal_start_ready (c : Ctx) : PhaseLegal (PhaseReg.start c .ready false) := by
  simp [PhaseLegal, PhaseReg.start]

theorem phaseLegal_start_failed (c : Ctx) : PhaseLegal (PhaseReg.start c .failed true) := by
  simp [PhaseLegal, PhaseReg.start]

section
variable {p : PhaseReg} (h : PhaseLegal p) (hrunning : p.running = true)
include h hrunning

/-- A running session has no result yet. -/
theorem PhaseLegal.no_result : p.tagOk = false ∧ p.authFail = false ∧ p.cipherFail = false ∧ p.padFail = false := by
  obtain ⟨-, htag, -, -, hflags, -, -⟩ := h
  rw [running_iff] at hrunning
  have hdone : p.ph ≠ .done := by obtain hph | hph := hrunning <;> simp [hph]
  have hfailed : p.ph ≠ .failed := by obtain hph | hph := hrunning <;> simp [hph]
  exact ⟨Bool.eq_false_iff.mpr fun hok => hdone (htag.mp hok).1, hflags hfailed⟩

omit hrunning in
theorem PhaseLegal.aad_auth : p.aadDone = true → p.smode.isAuth = true := by
  obtain ⟨-, -, haad, -⟩ := h
  exact haad

theorem PhaseLegal.absorbed (hauth : p.smode.isAuth = true) : PhaseLegal { p with aadDone := true } := by
  obtain ⟨hidle, htag, -, hrest⟩ := h
  rw [running_iff] at hrunning
  refine ⟨fun hph => ?_, htag, fun _ => hauth, hrest⟩
  obtain hready | hdata := hrunning
  · exact absurd (hready.symm.trans hph) (by decide)
  · exact absurd (hdata.symm.trans hph) (by decide)

theorem PhaseLegal.data : PhaseLegal { p with ph := .data } := by
  obtain ⟨htag, hauth, hcipher, hpad⟩ := h.no_result hrunning
  simpa [PhaseLegal, htag, hauth, hcipher, hpad] using h.aad_auth

theorem PhaseLegal.cipherFailed : PhaseLegal { p with ph := .failed, cipherFail := true } := by
  obtain ⟨htag, hauth, hcipher, hpad⟩ := h.no_result hrunning
  simpa [PhaseLegal, htag, hauth, hpad] using h.aad_auth

theorem PhaseLegal.authFailed (hmode : p.smode.isAuth = true) (hdir : p.sdir = .decrypt) :
    PhaseLegal { p with ph := .failed, authFail := true } := by
  obtain ⟨htag, hauth, hcipher, hpad⟩ := h.no_result hrunning
  simp [PhaseLegal, htag, hcipher, hpad, hmode, hdir]

theorem PhaseLegal.padFailed (hmode : p.smode.isBlock = true) (hdir : p.sdir = .decrypt) :
    PhaseLegal { p with ph := .failed, padFail := true } := by
  obtain ⟨htag, hauth, hcipher, hpad⟩ := h.no_result hrunning
  simpa [PhaseLegal, htag, hauth, hcipher, hmode, hdir] using h.aad_auth

theorem PhaseLegal.tagged (hmode : p.smode.isAuth = true) : PhaseLegal { p with ph := .done, tagOk := true } := by
  obtain ⟨htag, hauth, hcipher, hpad⟩ := h.no_result hrunning
  simp [PhaseLegal, hauth, hcipher, hpad, hmode]

theorem PhaseLegal.ended (hmode : p.smode.isAuth = false) : PhaseLegal { p with ph := .done } := by
  obtain ⟨htag, hauth, hcipher, hpad⟩ := h.no_result hrunning
  have haad := h.aad_auth
  simp only [hmode, Bool.false_eq_true, imp_false, Bool.not_eq_true] at haad
  simp [PhaseLegal, htag, hauth, hcipher, hpad, hmode, haad]

end

/-! ## The context of a session -/

/-- The configuration's legality is decided by the copies of MCFG and, for CCM, by CCM_ALEN (44_mode_session.md R123). -/
theorem configLegal_congr (C : Cipher) {c c' : Ctx} {n n' : Nat} (hmode : c'.mode = c.mode) (hpad : c'.pad = c.pad)
    (hseg : c'.seg = c.seg) (htaglen : c'.taglen = c.taglen) (htagpl : c'.tagpl = c.tagpl)
    (halen : c.mode = .ccm → n' = n) : configLegal C c' n' = configLegal C c n := by
  have hccm : (c.mode == .ccm && decide (65535 < n')) = (c.mode == .ccm && decide (65535 < n)) := by
    cases hcmp : c.mode == .ccm with
    | true => rw [halen (beq_iff_eq.mp hcmp)]
    | false => rfl
  simp only [configLegal, hmode, hpad, hseg, htaglen, htagpl, hccm]

/-- A data command keeps the session legal, as long as its bytes fit CCM's message length. -/
theorem SessionLegal.of_sameSession {C : Cipher} {c c' : Ctx} (h : SessionLegal C c) (hsame : SameSession c c') {n : Nat}
    (hn : c.mode = .ccm → n ≤ c.cmlen) : SessionLegal C { c' with processed := n } := by
  obtain ⟨hconfig, hccm⟩ := h
  refine ⟨?_, fun hmode => ?_⟩
  · rw [← hconfig]
    exact configLegal_congr C hsame.mode hsame.pad hsame.seg hsame.taglen hsame.tagpl fun _ => hsame.calen
  · rw [hsame.mode] at hmode
    obtain ⟨hq, hlow, hhigh, halen, hmlen, -⟩ := hccm hmode
    simp only [hsame.q, hsame.N, hsame.calen, hsame.cmlen]
    exact ⟨hq, hlow, hhigh, halen, hmlen, hn hmode⟩

theorem modeAad_same {C : Cipher} {c c' : Ctx} {x : Bytes} (h : modeAad C c x = some c') : SameSession c c' := by
  unfold modeAad at h
  split at h
  · cases h
    exact ⟨rfl, rfl, rfl, rfl, rfl, rfl, rfl, rfl, rfl, rfl, rfl⟩
  · unfold ccmAad at h
    split at h
    · cases h
      exact SameSession.refl c
    · obtain ⟨_, -, rfl⟩ := Option.map_eq_some_iff.mp h
      exact ⟨rfl, rfl, rfl, rfl, rfl, rfl, rfl, rfl, rfl, rfl, rfl⟩
  · obtain ⟨_, -, rfl⟩ := Option.map_eq_some_iff.mp h
    exact ⟨rfl, rfl, rfl, rfl, rfl, rfl, rfl, rfl, rfl, rfl, rfl⟩
  all_goals nomatch h

/-- What Init leaves of the configuration, and what CCM's Init adds to it (44_mode_session.md R129, 47_mode_ccm.md R154). -/
structure InitKeeps (c c' : Ctx) (n : Bytes) (alen mlen : Nat) : Prop where
  mode : c'.mode = c.mode
  dir : c'.dir = c.dir
  pad : c'.pad = c.pad
  seg : c'.seg = c.seg
  taglen : c'.taglen = c.taglen
  tagpl : c'.tagpl = c.tagpl
  processed : c'.processed = c.processed
  ccm : c.mode = .ccm → c'.q = 15 - n.length ∧ c'.N = n ∧ c'.calen = alen ∧ c'.cmlen = mlen

theorem modeInit_keeps {C : Cipher} {c c' : Ctx} {n : Bytes} {alen mlen : Nat} (h : modeInit C c n alen mlen = some c') :
    InitKeeps c c' n alen mlen := by
  unfold modeInit at h
  split at h
  iterate 6
    · next hmode =>
      cases h
      exact ⟨rfl, rfl, rfl, rfl, rfl, rfl, rfl, fun hccm => by rw [hmode] at hccm; nomatch hccm⟩
  · next hmode =>
    obtain ⟨_, -, hmap⟩ := Option.bind_eq_some_iff.mp h
    obtain ⟨_, -, rfl⟩ := Option.map_eq_some_iff.mp hmap
    exact ⟨rfl, rfl, rfl, rfl, rfl, rfl, rfl, fun hccm => by rw [hmode] at hccm; nomatch hccm⟩
  · obtain ⟨_, -, hmap⟩ := Option.bind_eq_some_iff.mp h
    obtain ⟨_, -, rfl⟩ := Option.map_eq_some_iff.mp hmap
    exact ⟨rfl, rfl, rfl, rfl, rfl, rfl, rfl, fun _ => ⟨rfl, rfl, rfl, rfl⟩⟩
  · next hmode =>
    obtain ⟨_, -, hmap⟩ := Option.bind_eq_some_iff.mp h
    obtain ⟨_, -, rfl⟩ := Option.map_eq_some_iff.mp hmap
    exact ⟨rfl, rfl, rfl, rfl, rfl, rfl, rfl, fun hccm => by rw [hmode] at hccm; nomatch hccm⟩

/-- A configuration that is legal for CCM has a length of AAD that its length field can hold (44_mode_session.md R123). -/
theorem alen_le_of_configLegal {C : Cipher} {c : Ctx} {alen : Nat} (h : configLegal C c alen = true) (hccm : c.mode = .ccm) :
    alen ≤ 65535 := by
  simp only [configLegal, hccm, Bool.and_eq_true, Bool.not_eq_true', beq_self_eq_true, Bool.true_and,
    decide_eq_false_iff_not, Nat.not_lt] at h
  obtain ⟨⟨-, halen⟩, -⟩ := h
  exact halen

/-- MINIT's checks make the session it starts legal. -/
theorem sessionLegal_of_init {C : Cipher} {a l : Nat} {s : State} {c c' : Ctx}
    (hconfig : sessionConfig C s.mcfg s.ccmAlen.toNat = some c) (hpass : firstFault (minitChecks C a l s c) = none)
    (hinit : modeInit C c (s.buf.readBytes a l) s.ccmAlen.toNat s.ccmMlen.toNat = some c') : SessionLegal C c' := by
  obtain ⟨m, p, -, -, hlegal, hc⟩ := sessionConfig_eq_some hconfig
  obtain ⟨hmode, -, hpad, hseg, htaglen, htagpl, hprocessed, hccm⟩ := modeInit_keeps hinit
  refine ⟨?_, fun hmode' => ?_⟩
  · rw [← hlegal]
    exact configLegal_congr C hmode hpad hseg htaglen htagpl fun h => by
      obtain ⟨-, -, halen, -⟩ := hccm h
      exact halen
  · have hmodeCcm : c.mode = .ccm := hmode.symm.trans hmode'
    obtain ⟨hnonce, hlength, -⟩ := (orderedChecks_minit C a l s c).none_iff.mp hpass
    simp only [nonceLegal, hmodeCcm, decide_eq_false_iff_not, not_not] at hnonce
    obtain ⟨hq, hN, halen, hmlen⟩ := hccm hmodeCcm
    have hzero : c.processed = 0 := by rw [hc]; rfl
    rw [length_readBytes] at hq
    rw [hq, hN, halen, hmlen, hprocessed, hzero, length_readBytes]
    exact ⟨by omega, hnonce.1, hnonce.2, alen_le_of_configLegal hlegal hmodeCcm,
      Nat.not_le.mp fun hle => hlength ⟨hmodeCcm, hle⟩, Nat.zero_le _⟩

/-! ## The mode-engine commands -/

/-- A command that leaves BUF, the context, PHASE and OUTLEN legal keeps the invariant. -/
theorem Inv.withSession {s : State} (h : Inv s) {m : Memory} (hm : m.wf) {c : Ctx} {p : PhaseReg} {n : Nat}
    (hn : n ≤ Config.BUF_BYTES) (hphase : PhaseLegal p) (hmode : p.smode = c.mode) (hdir : p.sdir = c.dir)
    (hsession : p.running = true → SessionLegal Config.cipher c) :
    Inv ({ s with buf := m }.withSession c p n) := by
  obtain ⟨hmcfg, htagaddr, -⟩ := h.csrs
  refine ⟨h.regs, h.queue, ⟨hmcfg, htagaddr, ?_⟩, hm, hphase, ⟨hmode, hdir⟩, hsession⟩
  exact (BitVec.toNat_ofNat ..).trans_le ((Nat.mod_le ..).trans hn)

section
variable {s : State} (h : Inv s) (a b l : Nat)
include h

theorem Inv.minit : Inv (leftState (minit Config.cipher a l s)) := by
  obtain ⟨f, -, hraise⟩ | ⟨c, -, hconfig, hpass, hfailed | ⟨c', hinit, hok⟩⟩ := minit_cases Config.cipher a l s
  · rw [hraise]
    exact h
  · rw [hfailed]
    exact h.withSession h.buf (Nat.zero_le _) (phaseLegal_start_failed c) rfl rfl nofun
  · rw [hok]
    have hkeeps := modeInit_keeps hinit
    exact h.withSession h.buf (Nat.zero_le _) (phaseLegal_start_ready c) hkeeps.mode.symm hkeeps.dir.symm fun _ =>
      sessionLegal_of_init hconfig hpass hinit

theorem Inv.maad : Inv (leftState (maad Config.cipher a l s)) := by
  obtain ⟨f, -, hraise⟩ | ⟨hpass, hcase⟩ := maad_cases Config.cipher a l s
  · rw [hraise]
    exact h
  · obtain ⟨hallowed, -, -⟩ := (orderedChecks_maad a l s).none_iff.mp hpass
    simp only [MaadForbidden, not_or, not_not, Bool.not_eq_false, ne_eq] at hallowed
    obtain ⟨hready, -, hauth⟩ := hallowed
    have hrunning := running_iff.mpr (.inl hready)
    obtain ⟨hmode, hdir⟩ := h.copies
    obtain hfailed | ⟨c, haad, hok⟩ := hcase
    · rw [hfailed]
      exact ⟨h.regs, h.queue, h.csrs, h.buf, h.phase.cipherFailed hrunning, h.copies, nofun⟩
    · have hsame := modeAad_same haad
      rw [hok]
      refine ⟨h.regs, h.queue, h.csrs, h.buf, h.phase.absorbed hrunning (by rwa [hmode]),
        ⟨hmode.trans hsame.mode.symm, hdir.trans hsame.dir.symm⟩, fun _ => ?_⟩
      have hlegal := h.session hrunning
      refine hlegal.of_sameSession hsame (n := c.processed) fun hccm => ?_
      obtain ⟨-, -, -, -, -, hfit⟩ := hlegal.2 hccm
      rwa [hsame.processed]

theorem Inv.mproc : Inv (leftState (mproc Config.cipher a b l s)) := by
  obtain ⟨f, -, hraise⟩ | ⟨hpass, r, hrun, hcase⟩ := mproc_cases Config.cipher a b l s
  · rw [hraise]
    exact h
  · obtain ⟨hphase, -, -, hlength, hin, -⟩ := mprocChecks_eq_none_iff.mp hpass
    have hrunning := running_iff.mpr hphase
    have hwf := fun p => (mproc_stores h.buf hpass hrun p).1
    have hsame : SameSession s.ctx r.ctx := by rw [hrun]; exact run_sameSession _ _ _
    obtain ⟨hmode, hdir⟩ := h.copies
    have hl : l ≤ Config.BUF_BYTES := by omega
    obtain ⟨-, hok⟩ | ⟨-, hfailed⟩ := hcase
    · rw [hok]
      exact h.withSession (hwf s.phase) hl (h.phase.data hrunning) (hmode.trans hsame.mode.symm)
        (hdir.trans hsame.dir.symm) fun _ => (h.session hrunning).of_sameSession hsame hlength
    · rw [hfailed]
      exact h.withSession (hwf s.phase) hl (h.phase.cipherFailed hrunning) (hmode.trans hsame.mode.symm)
        (hdir.trans hsame.dir.symm) nofun

theorem Inv.mfinal : Inv (leftState (mfinal Config.cipher a b l s)) := by
  obtain ⟨f, -, hraise⟩ | ⟨hpass, hend⟩ := mfinal_cases Config.cipher a b l s
  · rw [hraise]
    exact h
  · obtain ⟨hphase, -, hbounds⟩ := (orderedChecks_mfinal _ a b l s).none_iff.mp hpass
    rw [MfinalBoundsIllegal, ← finalOutMax_eq] at hbounds
    simp only [not_or, Nat.not_lt] at hbounds
    obtain ⟨hin, hout, -⟩ := hbounds
    have hrunning := running_iff.mpr (not_takesNoData_iff.mp hphase).1
    obtain ⟨hwf, -⟩ := hend.stores h.buf hpass
    obtain ⟨hmode, hdir⟩ := h.copies
    have hsame {x : Bytes} {r : RunResult} (hrun : r = run Config.cipher s.ctx x) : SameSession s.ctx r.ctx := by
      rw [hrun]
      exact run_sameSession _ _ _
    have hcopy {x : Bytes} {r : RunResult} (hrun : r = run Config.cipher s.ctx x) : s.phase.smode = r.ctx.mode :=
      hmode.trans (hsame hrun).mode.symm
    have hcopyDir {x : Bytes} {r : RunResult} (hrun : r = run Config.cipher s.ctx x) : s.phase.sdir = r.ctx.dir :=
      hdir.trans (hsame hrun).dir.symm
    have hlBuf : l ≤ Config.BUF_BYTES := by omega
    have hdata : finalDataLen s.ctx l ≤ Config.BUF_BYTES := by unfold finalOutMax at hout; omega
    generalize Machine.mfinal Config.cipher a b l s = result at hend hwf ⊢
    cases hend with
    | encryptFailed _ _ hrun => exact h.withSession hwf hlBuf (h.phase.cipherFailed hrunning) (hcopy hrun) (hcopyDir hrun) nofun
    | encrypted hauth henc hrun _ =>
      refine h.withSession hwf ?_ (h.phase.tagged hrunning (by rwa [hmode])) (hcopy hrun) (hcopyDir hrun) nofun
      unfold taggedLen
      split
      · next hplace =>
        have hmax : l + s.ctx.taglen ≤ finalOutMax Config.cipher s.ctx l := by
          simp only [finalOutMax, finalDataLen_of_encrypt henc, hauth, henc, hplace, beq_self_eq_true, Bool.and_self, if_true]
          omega
        omega
      · exact hlBuf
    | decryptFailed _ _ hrun =>
      exact h.withSession h.buf (Nat.zero_le _) (h.phase.cipherFailed hrunning) (hcopy hrun) (hcopyDir hrun) nofun
    | verified hauth _ hrun =>
      exact h.withSession hwf hdata (h.phase.tagged hrunning (by rwa [hmode])) (hcopy hrun) (hcopyDir hrun) nofun
    | refused hauth hdec hrun =>
      exact h.withSession h.buf (Nat.zero_le _) (h.phase.authFailed hrunning (by rwa [hmode]) (by rwa [hdir]))
        (hcopy hrun) (hcopyDir hrun) nofun
    | plainFailed hplain hrun =>
      refine h.withSession hwf ?_ (h.phase.cipherFailed hrunning) (hcopy hrun) (hcopyDir hrun) nofun
      rw [hrun, length_run, length_plainInput]
      unfold finalOutMax at hout
      rw [finalDataLen_of_plain hplain] at hout
      omega
    | padding hplain hrun hpad =>
      obtain ⟨hblock, hdec⟩ : s.ctx.mode.isBlock = true ∧ s.ctx.dir = .decrypt := by
        by_contra hno
        rw [plainOutput, if_neg hno] at hpad
        nomatch hpad
      exact h.withSession h.buf (Nat.zero_le _) (h.phase.padFailed hrunning (by rwa [hmode]) (by rwa [hdir]))
        (hcopy hrun) (hcopyDir hrun) nofun
    | plain hplain hrun hpad =>
      refine h.withSession hwf ((length_plainOutput_le hpad).trans ?_) (h.phase.ended hrunning (by rwa [hmode]))
        (hcopy hrun) (hcopyDir hrun) nofun
      rw [hrun, length_run, length_plainInput]
      unfold finalOutMax at hout
      rw [finalDataLen_of_plain hplain] at hout
      omega

theorem Inv.mreset : Inv (mreset s) :=
  h.withSession h.buf (Nat.zero_le _) phaseLegal_zero rfl rfl nofun

end

/-! ## Every step -/

/-- A well-formed command keeps the invariant. -/
theorem Inv.exec {i : Instr} {s t : State} (h : Inv s) (hwf : i.wellFormed = true) (hexec : exec i s = .next t) : Inv t := by
  cases hbau : isBau i with
  | true =>
    obtain ⟨result, hresult, hcases⟩ := exec_bau_cases hbau s
    rw [hresult] at hexec
    exact (h.of_bauResult hwf hcases).of_finish hexec
  | false =>
    cases i with
    | nop => exact Inv.of_finish (result := .ok s) h hexec
    | wcsr n v => exact (h.of_wcsr n v).of_finish hexec
    | minit a l => exact (h.minit a l).of_finish hexec
    | maad a l => exact (h.maad a l).of_finish hexec
    | mproc a b l => exact (h.mproc a b l).of_finish hexec
    | mfinal a b l => exact (h.mfinal a b l).of_finish hexec
    | mreset => exact Inv.of_finish (result := .ok (Machine.mreset s)) h.mreset hexec
    | bldi | bld | bst | bmov | bgetw | bsetw | badd | bsub | bmulw | bmul | bdiv | bshl | bshr | band | bor | bxor | bcmp
    | bpow | bgcd | binv | bsprp => nomatch hbau

theorem Inv.engineStep {s t : State} (h : Inv s) (hstep : engineStep s = .next t) : Inv t := by
  cases hqueue : s.queue with
  | nil =>
    rw [engineStep_of_empty hqueue] at hstep
    cases hstep
    exact h
  | cons w rest =>
    cases hdecode : decode w with
    | ok i =>
      rw [engineStep_of_decode hqueue hdecode] at hstep
      exact h.exec (encode_of_decode hdecode).2 hstep
    | error c =>
      rw [engineStep_of_decode_error hqueue hdecode] at hstep
      exact Inv.of_finish (result := .raise c s) h hstep

/-- Settles O8, by the event at the head of the host's list and, on the engine's turn, by its command. -/
theorem stepKeepsInvariant : Obligations.StepKeepsInvariant := by
  unfold Obligations.StepKeepsInvariant
  intro s t h hstep
  cases hhost : s.host with
  | nil =>
    rw [step_of_no_host hhost] at hstep
    exact h.engineStep hstep
  | cons e es =>
    have hrest := h.withHost es
    cases e with
    | engine =>
      rw [step_of_engine hhost] at hstep
      exact hrest.engineStep hstep
    | read a =>
      rw [step_of_read hhost] at hstep
      cases hstep
      exact hrest.hostRead _ a
    | write a v =>
      rw [step_of_write hhost] at hstep
      cases hstep
      exact hrest.hostWrite a v

end Sys2Proof.Machine
end

section
/-! Byte strings cut into blocks, and the multiplication of GHASH (46_mode_gcm.md R143, R144). -/

namespace Sys2Proof.Proofs

open Sys2Proof.Machine Sys2Proof.Laws

/-! ## Zero bytes behind a string -/

theorem be_replicate_zero (n : Nat) : be (List.replicate n 0#8) = 0 := by
  induction n with
  | zero => rfl
  | succ n ih => rw [List.replicate_succ, be_cons, ih, BitVec.toNat_ofNat, Nat.zero_mod, Nat.zero_mul]

theorem be_append_zeros (s : Bytes) (n : Nat) : be (s ++ List.replicate n 0#8) = be s * 256 ^ n := by
  rw [be_append, be_replicate_zero, List.length_replicate, Nat.add_zero]

/-- A part of a block, zero-padded, read as a block. -/
theorem blockOf_zeroPad16 {s : Bytes} (hpos : 0 < s.length) (hshort : s.length < 16) :
    blockOf (zeroPad16 s) = BitVec.ofNat 128 (be s * 256 ^ (16 - s.length)) := by
  have hcount : (16 - s.length % 16) % 16 = 16 - s.length := by omega
  rw [zeroPad16, hcount, blockOf, be_append_zeros]

/-! ## Strings as blocks -/

theorem paddedBlocks_nil : paddedBlocks [] = [] := rfl

theorem zeroPad16_append {x : Bytes} (hx : x.length = 16) (y : Bytes) : zeroPad16 (x ++ y) = x ++ zeroPad16 y := by
  rw [zeroPad16, zeroPad16, List.length_append, hx, Nat.add_mod_left, List.append_assoc]

/-- A whole block in front is the first piece. -/
theorem paddedBlocks_append {x : Bytes} (hx : x.length = 16) (y : Bytes) :
    paddedBlocks (x ++ y) = blockOf x :: paddedBlocks y := by
  have hcount : ((x ++ y).length + 15) / 16 = (y.length + 15) / 16 + 1 := by
    rw [List.length_append, hx]
    omega
  rw [paddedBlocks, hcount, zeroPad16_append hx, pieces_append hx, List.map_cons, paddedBlocks]

/-- What is shorter than a block is one piece, zero-padded. -/
theorem paddedBlocks_of_short {x : Bytes} (hpos : 0 < x.length) (hshort : x.length < 16) :
    paddedBlocks x = [BitVec.ofNat 128 (be x * 256 ^ (16 - x.length))] := by
  have hcount : (x.length + 15) / 16 = 1 := by omega
  have htake : (zeroPad16 x).take 16 = zeroPad16 x := by
    refine List.take_of_length_le ?_
    rw [zeroPad16, List.length_append, List.length_replicate]
    omega
  rw [paddedBlocks, hcount, pieces, pieces, htake, List.map_cons, List.map_nil, blockOf_zeroPad16 hpos hshort]

/-! ## Multiplication by x -/

/-- A block times x: shifted to the right, XOR R when a 1 went out (46_mode_gcm.md R143). -/
def gcmTimesX (v : Block) : Block := if v.getLsbD 0 then (v >>> 1) ^^^ gcmR else v >>> 1

theorem gcmTimesX_eq (v : Block) :
    gcmTimesX v = (v >>> 1) ^^^ (if v.toNat % 2 = 1 then 0xE1000000000000000000000000000000#128 else 0) := by
  have hlow : v.getLsbD 0 = true ↔ v.toNat % 2 = 1 := by
    rw [BitVec.getLsbD, Nat.testBit_zero, decide_eq_true_eq]
  unfold gcmTimesX
  simp only [hlow]
  split
  · rfl
  · exact (BitVec.xor_zero).symm

theorem gcmTimesX_xor (v w : Block) : gcmTimesX (v ^^^ w) = gcmTimesX v ^^^ gcmTimesX w := by
  have hself : gcmR ^^^ gcmR = 0#128 := BitVec.xor_self
  unfold gcmTimesX
  rw [BitVec.getLsbD_xor, BitVec.ushiftRight_xor_distrib]
  cases v.getLsbD 0 <;> cases w.getLsbD 0
  · rfl
  · exact BitVec.xor_assoc ..
  · simp only [Bool.xor_false, if_true, Bool.false_eq_true, if_false]
    ac_rfl
  · simp only [Bool.xor_true, Bool.not_true, if_true, Bool.false_eq_true, if_false]
    calc v >>> 1 ^^^ w >>> 1 = v >>> 1 ^^^ w >>> 1 ^^^ (gcmR ^^^ gcmR) := by rw [hself, BitVec.xor_zero]
      _ = v >>> 1 ^^^ gcmR ^^^ (w >>> 1 ^^^ gcmR) := by ac_rfl

/-! ## The loop of the multiplication -/

theorem gcmMulLoop_succ (x : Block) (n : Nat) (z v : Block) :
    gcmMulLoop x (n + 1) z v = gcmMulLoop x n (if x.getLsbD n then z ^^^ v else z) (gcmTimesX v) := rfl

/-- One addition of the loop, of sums. -/
theorem ite_xor_xor (a b : Bool) (z w v : Block) :
    (if a ^^ b then z ^^^ w ^^^ v else z ^^^ w) = (if a then z ^^^ v else z) ^^^ (if b then w ^^^ v else w) := by
  cases a <;> cases b
  · rfl
  · exact BitVec.xor_assoc ..
  · simp only [Bool.xor_false, if_true, Bool.false_eq_true, if_false]
    ac_rfl
  · simp only [Bool.xor_true, Bool.not_true, if_true, Bool.false_eq_true, if_false]
    calc z ^^^ w = z ^^^ w ^^^ (v ^^^ v) := by rw [BitVec.xor_self, BitVec.xor_zero]
      _ = z ^^^ v ^^^ (w ^^^ v) := by ac_rfl

theorem gcmMulLoop_xor_left (x y : Block) (n : Nat) (z w v : Block) :
    gcmMulLoop (x ^^^ y) n (z ^^^ w) v = gcmMulLoop x n z v ^^^ gcmMulLoop y n w v := by
  induction n generalizing z w v with
  | zero => rfl
  | succ n ih => rw [gcmMulLoop_succ, gcmMulLoop_succ, gcmMulLoop_succ, BitVec.getLsbD_xor, ite_xor_xor, ih]

theorem gcmMulLoop_xor_right (x : Block) (n : Nat) (z w v u : Block) :
    gcmMulLoop x n (z ^^^ w) (v ^^^ u) = gcmMulLoop x n z v ^^^ gcmMulLoop x n w u := by
  induction n generalizing z w v u with
  | zero => rfl
  | succ n ih =>
    rw [gcmMulLoop_succ, gcmMulLoop_succ, gcmMulLoop_succ, gcmTimesX_xor, ← ih]
    congr 1
    split
    · ac_rfl
    · rfl

/-- Bits that are 0 add nothing. -/
theorem gcmMulLoop_of_zero_bits {x : Block} {n : Nat} (hzero : ∀ i < n, x.getLsbD i = false) (z v : Block) :
    gcmMulLoop x n z v = z := by
  induction n generalizing z v with
  | zero => rfl
  | succ n ih =>
    rw [gcmMulLoop_succ, hzero n (Nat.lt_succ_self n), if_neg Bool.false_ne_true]
    exact ih (fun i hi => hzero i (Nat.lt_succ_of_lt hi)) z _

theorem getLsbD_ofNat_two_pow {k i : Nat} (hk : k < 128) : (BitVec.ofNat 128 (2 ^ k)).getLsbD i = decide (k = i) := by
  rw [BitVec.getLsbD_ofNat, Nat.testBit_two_pow]
  by_cases hki : k = i
  · simp [hki, hki ▸ hk]
  · simp [hki]

/-- A power of x on the left multiplies by x again and again. -/
theorem gcmMulLoop_two_pow {k n : Nat} (hk : k < 128) (hkn : k < n) (z v : Block) :
    gcmMulLoop (BitVec.ofNat 128 (2 ^ k)) n z v = z ^^^ gcmTimesX^[n - 1 - k] v := by
  induction n generalizing z v with
  | zero => nomatch hkn
  | succ n ih =>
    rw [gcmMulLoop_succ, getLsbD_ofNat_two_pow hk]
    obtain rfl | hlt : k = n ∨ k < n := by omega
    · have hzero : ∀ i < k, (BitVec.ofNat 128 (2 ^ k)).getLsbD i = false := fun i hi => by
        rw [getLsbD_ofNat_two_pow hk]
        exact decide_eq_false (by omega)
      rw [gcmMulLoop_of_zero_bits hzero, decide_eq_true rfl, if_pos rfl, Nat.add_sub_cancel, Nat.sub_self]
      rfl
    · have hcount : n + 1 - 1 - k = n - 1 - k + 1 := by omega
      rw [decide_eq_false (by omega), if_neg Bool.false_ne_true, ih hlt, hcount, Function.iterate_succ_apply]

theorem gcmMul_two_pow {k : Nat} (hk : k < 128) (y : Block) :
    gcmMul (BitVec.ofNat 128 (2 ^ k)) y = gcmTimesX^[127 - k] y := by
  rw [gcmMul, gcmMulLoop_two_pow hk hk]
  exact BitVec.zero_xor

/-- A power of x that has room to the right is shifted. -/
theorem gcmTimesX_two_pow {k : Nat} (hk : k + 1 < 128) :
    gcmTimesX (BitVec.ofNat 128 (2 ^ (k + 1))) = BitVec.ofNat 128 (2 ^ k) := by
  rw [gcmTimesX, getLsbD_ofNat_two_pow hk, decide_eq_false (by omega), if_neg Bool.false_ne_true]
  refine BitVec.eq_of_getLsbD_eq fun i _ => ?_
  rw [BitVec.getLsbD_ushiftRight, getLsbD_ofNat_two_pow hk, getLsbD_ofNat_two_pow (by omega)]
  exact decide_eq_decide.mpr (by omega)

/-- The lowest `n` bits of a block, the lowest but for bit `n - 1` and that bit. -/
theorem lowBits_succ (x : Block) {n : Nat} (hn : n < 128) :
    BitVec.ofNat 128 (x.toNat % 2 ^ (n + 1))
      = (if x.getLsbD n then BitVec.ofNat 128 (2 ^ n) else 0) ^^^ BitVec.ofNat 128 (x.toNat % 2 ^ n) := by
  refine BitVec.eq_of_getLsbD_eq fun i hi => ?_
  have hbit : (if x.getLsbD n then BitVec.ofNat 128 (2 ^ n) else 0).getLsbD i = (x.getLsbD n && decide (n = i)) := by
    cases x.getLsbD n with
    | false => exact BitVec.getLsbD_zero
    | true => rw [if_pos rfl, getLsbD_ofNat_two_pow hn, Bool.true_and]
  rw [BitVec.getLsbD_xor, hbit, BitVec.getLsbD_ofNat, BitVec.getLsbD_ofNat, Nat.testBit_mod_two_pow,
    Nat.testBit_mod_two_pow, decide_eq_true hi, Bool.true_and, Bool.true_and]
  obtain hlt | rfl | hgt := Nat.lt_trichotomy i n
  · rw [decide_eq_true (by omega : i < n + 1), decide_eq_true hlt, decide_eq_false (by omega), Bool.and_false,
      Bool.false_xor]
  · rw [decide_eq_true (Nat.lt_succ_self i), decide_eq_false (Nat.lt_irrefl i), decide_eq_true rfl, Bool.true_and,
      Bool.and_true, Bool.false_and, Bool.xor_false, BitVec.getLsbD]
  · rw [decide_eq_false (by omega : ¬i < n + 1), decide_eq_false (by omega : ¬i < n), decide_eq_false (by omega),
      Bool.false_and, Bool.and_false, Bool.xor_false]

/-- With 1 on the right, the loop gathers the bits of the left factor. -/
theorem gcmMulLoop_one (x : Block) {n : Nat} (hn : n < 128) (z : Block) :
    gcmMulLoop x (n + 1) z (BitVec.ofNat 128 (2 ^ n)) = z ^^^ BitVec.ofNat 128 (x.toNat % 2 ^ (n + 1)) := by
  have hadd : (if x.getLsbD n then z ^^^ BitVec.ofNat 128 (2 ^ n) else z)
      = z ^^^ (if x.getLsbD n then BitVec.ofNat 128 (2 ^ n) else 0) := by
    split
    · rfl
    · exact BitVec.xor_zero.symm
  rw [gcmMulLoop_succ, hadd, lowBits_succ x hn, ← BitVec.xor_assoc]
  cases n with
  | zero =>
    rw [Nat.pow_zero, Nat.mod_one]
    exact BitVec.xor_zero.symm
  | succ n => rw [gcmTimesX_two_pow hn, gcmMulLoop_one x (by omega)]

/-! ## The multiplication and Fold -/

theorem gcmMul_xor_left (x y z : Block) : gcmMul (x ^^^ y) z = gcmMul x z ^^^ gcmMul y z :=
  gcmMulLoop_xor_left x y 128 0 0 z

theorem gcmMul_xor_right (x y z : Block) : gcmMul x (y ^^^ z) = gcmMul x y ^^^ gcmMul x z :=
  gcmMulLoop_xor_right x 128 0 0 y z

/-- The block of the polynomial 1 on the right. -/
theorem gcmMul_one (x : Block) : gcmMul x (BitVec.ofNat 128 (2 ^ 127)) = x := by
  rw [gcmMul, gcmMulLoop_one x (by decide), Nat.mod_eq_of_lt x.isLt, BitVec.ofNat_toNat, BitVec.setWidth_eq]
  exact BitVec.zero_xor

theorem ghashFold_nil (h x : Block) : ghashFold h x [] = x := rfl

theorem ghashFold_append {s : Bytes} (hs : s.length = 16) (h x : Block) (u : Bytes) :
    ghashFold h x (s ++ u) = ghashFold h (gcmMul (x ^^^ blockOf s) h) u := by
  rw [ghashFold, paddedBlocks_append hs, List.foldl_cons, ghashFold]

theorem ghashFold_of_short {s : Bytes} (hpos : 0 < s.length) (hshort : s.length < 16) (h x : Block) :
    ghashFold h x s = gcmMul (x ^^^ BitVec.ofNat 128 (be s * 256 ^ (16 - s.length))) h := by
  rw [ghashFold, paddedBlocks_of_short hpos hshort, List.foldl_cons, List.foldl_nil]

/-- Settles O52: the loop is linear in both factors, and a power of x shifts. -/
theorem ghashMultiplicationIsBilinear : Obligations.GhashMultiplicationIsBilinear := by
  unfold Obligations.GhashMultiplicationIsBilinear
  refine ⟨fun x y z => ⟨gcmMul_xor_left x y z, gcmMul_xor_right x y z, gcmMul_two_pow (k := 127) (by decide) y, gcmMul_one x⟩,
    fun y => ?_, fun y k hk => ?_, fun h x s u => ⟨ghashFold_nil h x, fun hs => ghashFold_append hs h x u,
      fun hpos hshort => ghashFold_of_short hpos hshort h x⟩⟩
  · rw [← gcmTimesX_eq]
    exact gcmMul_two_pow (k := 126) (by decide) y
  · have hcount : 127 - k = 127 - (k + 1) + 1 := by omega
    rw [← gcmTimesX_eq, gcmMul_two_pow (by omega), gcmMul_two_pow (by omega), hcount, Function.iterate_succ_apply']

end Sys2Proof.Proofs
end

section
/-! How a session starts, and how MAAD absorbs the AAD (44_mode_session.md R129, R130). -/

namespace Sys2Proof.Proofs

open Sys2Proof.Machine Sys2Proof.Laws

/-! ## MINIT of an unauthenticated mode -/

/-- A legal value of MCFG.PAD, read back. -/
theorem mcfgPad_of_bits {w : Word32} {p : Pad} (h : bits w 6 5 = (match p with | .none => 0 | .pkcs7 => 1 | .zero => 2)) :
    mcfgPad w = some p := by
  unfold mcfgPad
  rw [h]
  cases p <;> rfl

/-- TAGLEN and TAGPL are 0 when their field is. -/
theorem tag_fields_of_bits {w : Word32} (h : bits w 13 8 = 0) : bits w 12 8 = 0 ∧ bits w 13 13 = 0 := by
  simp only [bits] at h ⊢
  omega

/-- The configuration of an unauthenticated mode that R123 accepts. -/
theorem not_configIllegal_of_plain {w : Word32} {m : Mode} {p : Pad} (bs alen : Nat) (hplain : m.isAuth = false)
    (hmode : bits w 3 0 = m.code) (hpad : bits w 6 5 = (match p with | .none => 0 | .pkcs7 => 1 | .zero => 2))
    (hblock : p ≠ .none → m.isBlock = true) (hseg : bits w 7 7 = 1 → m = .cfb) (htag : bits w 13 8 = 0) :
    ¬ConfigIllegal bs w alen := by
  obtain ⟨htaglen, htagpl⟩ := tag_fields_of_bits htag
  simp only [ConfigIllegal, hmode, hpad, htaglen, htagpl, ne_eq, not_true_eq_false, or_self, and_false, or_false]
  cases m with
  | gcm | ccm | ocb => nomatch hplain
  | ecb | cbc | pcbc => cases p <;> simp_all [Mode.code]
  | cfb | ofb | ctr =>
    cases p with
    | none => simp_all [Mode.code]
    | pkcs7 | zero => exact absurd (hblock (by decide)) (by decide)

/-- Settles O32, from the configuration that R123 accepts and each mode's Init. -/
theorem minitStartsUnauthenticatedSession : Obligations.MinitStartsUnauthenticatedSession := by
  unfold Obligations.MinitStartsUnauthenticatedSession
  intro s w rest a l m p hqueue hready hdata hplain hmode hpad hblock hseg htag hl hin
  obtain ⟨htaglen, htagpl⟩ := tag_fields_of_bits htag
  have hidle := running_eq_false hready hdata
  have hlegal := not_configIllegal_of_plain Config.cipher.bs s.ccmAlen.toNat hplain hmode hpad hblock hseg htag
  rw [← sessionConfig_eq_none_iff, ← Ne, Option.ne_none_iff_exists'] at hlegal
  obtain ⟨c, hconfig⟩ := hlegal
  obtain ⟨m', p', hm', hp', -, hc⟩ := sessionConfig_eq_some hconfig
  obtain rfl : m = m' := Option.some.inj (((mcfgMode_eq_some_iff _ _).mpr hmode).symm.trans hm')
  obtain rfl : p = p' := Option.some.inj ((mcfgPad_of_bits hpad).symm.trans hp')
  have hcombined : mcfgTagpl s.mcfg = .combined := (mcfgTagpl_eq_combined_iff _).mpr htagpl
  rw [mcfgTaglen, htaglen, hcombined] at hc
  subst hc
  have hpass := minitChecks_of_legal (C := Config.cipher) (s := s) (a := a) (l := l)
    (c := { Ctx.zero with mode := m, dir := mcfgDir s.mcfg, pad := p, seg := mcfgSeg s.mcfg, taglen := 0, tagpl := .combined })
    (by rw [hl]; cases m <;> simp_all [nonceLegal, Mode.isAuth]) (fun hccm => absurd hccm (ne_ccm_of_plain hplain)) hin
  rw [exec_minit]
  cases m with
  | gcm | ccm | ocb => nomatch hplain
  | ecb | cbc | pcbc | cfb | ofb | ctr =>
    rw [minit_of_init hidle hconfig hpass rfl]
    exact finish_ok_eq_completed hqueue

/-! ## MINIT of an authenticated mode -/

theorem beBytes_zero (n : Nat) : beBytes n 0 = List.replicate n 0#8 := by
  induction n with
  | zero => rfl
  | succ n ih => rw [beBytes, Nat.zero_shiftRight, ih, List.replicate_succ]

theorem beBytes_add (m n v : Nat) : beBytes (m + n) v = beBytes m (v >>> (8 * n)) ++ beBytes n v := by
  induction m with
  | zero => rw [Nat.zero_add]; rfl
  | succ m ih =>
    have hshift : 8 * (m + n) = 8 * n + 8 * m := by omega
    rw [Nat.succ_add, beBytes, beBytes, ih, List.cons_append, hshift, Nat.shiftRight_add]

/-- A 64-bit number as a block: eight zero bytes, then its own. -/
theorem blockBytes_of_lt {v : Nat} (hv : v < 2 ^ 64) :
    blockBytes 16 (BitVec.ofNat 128 v) = List.replicate 8 0#8 ++ beBytes 8 v := by
  have hlow : v % 2 ^ 128 = v := Nat.mod_eq_of_lt (hv.trans (by decide))
  rw [blockBytes, BitVec.toNat_ofNat, hlow, beBytes_add 8 8, Nat.shiftRight_eq_div_pow, Nat.div_eq_of_lt hv, beBytes_zero]

/-- J0 of a 12-byte nonce (46_mode_gcm.md R146). -/
theorem toNat_gcmJ0 (h : Block) {n : Bytes} (hn : n.length = 12) : (gcmJ0 h n).toNat = be n * 2 ^ 32 + 1 := by
  rw [gcmJ0, if_pos hn, toNat_blockOf (by simp [hn]), be_append, be_beBytes, length_beBytes]
  rfl

/-- J0 of another nonce (46_mode_gcm.md R146). -/
theorem gcmJ0_of_other (h : Block) {n : Bytes} (hn : n.length ≠ 12) (hshort : 8 * n.length < 2 ^ 64) :
    gcmJ0 h n = ghashFold h 0 (n ++ List.replicate ((16 - n.length % 16) % 16) 0#8
      ++ blockBytes 16 (BitVec.ofNat 128 (8 * n.length))) := by
  rw [gcmJ0, if_neg hn, blockBytes_of_lt hshort, List.replicate_add]
  simp only [List.append_assoc]

/-- The tag length, a 1 bit and the nonce do not overlap in the OCB nonce block (48_mode_ocb.md R163). -/
theorem toNat_ocbNonce (t : Nat) {n : Bytes} (hn : n.length ≤ 15) :
    (ocbNonce t n).toNat = 8 * t % 128 * 2 ^ 121 + 2 ^ (8 * n.length) + be n := by
  have hbe : be n < 2 ^ (8 * n.length) := by
    rw [Nat.pow_mul]
    exact be_lt n
  have hone : 2 ^ (8 * n.length) ≤ 2 ^ 120 := Nat.pow_le_pow_right (by decide) (by omega)
  have hlow : 1 <<< (8 * n.length) ||| be n = 2 ^ (8 * n.length) + be n := by
    rw [← Nat.shiftLeft_add_eq_or_of_lt hbe, Nat.one_shiftLeft]
  have hhigh : (8 * t % 128) <<< 121 ||| (2 ^ (8 * n.length) + be n) = 8 * t % 128 * 2 ^ 121 + (2 ^ (8 * n.length) + be n) := by
    rw [← Nat.shiftLeft_add_eq_or_of_lt (by omega), Nat.shiftLeft_eq]
  rw [ocbNonce, BitVec.toNat_ofNat, Nat.or_assoc, hlow, hhigh]
  omega

/-- Stretch is Ktop above 64 bits (48_mode_ocb.md R163). -/
theorem toNat_ocbStretch (k : Block) :
    (ocbStretch k).toNat = k.toNat * 2 ^ 64 + ((k.toNat / 2 ^ 64) ^^^ (k.toNat / 2 ^ 56 % 2 ^ 64)) := by
  have hk := k.isLt
  have hmask (v : Nat) : v &&& 0xFFFFFFFFFFFFFFFF = v % 2 ^ 64 := Nat.and_two_pow_sub_one_eq_mod v 64
  have hlow : ((k.toNat / 2 ^ 64) ^^^ (k.toNat / 2 ^ 56 % 2 ^ 64)) < 2 ^ 64 :=
    Nat.xor_lt_two_pow (by omega) (Nat.mod_lt _ (by decide))
  have hvalue : (((k >>> 64) ^^^ ((k >>> 56) &&& 0xFFFFFFFFFFFFFFFF#128)).zeroExtend 192).toNat
      = (k.toNat / 2 ^ 64) ^^^ (k.toNat / 2 ^ 56 % 2 ^ 64) := by
    rw [BitVec.toNat_setWidth_of_le (by decide), BitVec.toNat_xor, BitVec.toNat_and, BitVec.toNat_ushiftRight,
      BitVec.toNat_ushiftRight, Nat.shiftRight_eq_div_pow, Nat.shiftRight_eq_div_pow, ← hmask]
    rfl
  have hktop : (k.zeroExtend 192 <<< 64).toNat = k.toNat <<< 64 := by
    rw [BitVec.toNat_shiftLeft, BitVec.toNat_setWidth_of_le (by decide), Nat.mod_eq_of_lt]
    rw [Nat.shiftLeft_eq]
    omega
  rw [ocbStretch, BitVec.toNat_or, hvalue, hktop, ← Nat.shiftLeft_add_eq_or_of_lt hlow, Nat.shiftLeft_eq]

/-- Settles O33, from each Init and the numbers of its blocks. -/
theorem minitStartsAuthenticatedSession : Obligations.MinitStartsAuthenticatedSession := by
  unfold Obligations.MinitStartsAuthenticatedSession
  intro C s a l c n e₁ e₂ hready hdata hconfig hnonce hin hn
  have hidle := running_eq_false hready hdata
  have hlength : n.length = l := by rw [hn, length_readBytes]
  obtain ⟨m, p, -, -, -, hc⟩ := sessionConfig_eq_some hconfig
  have hstart {c' : Ctx} (hccm : c.mode = .ccm → s.ccmMlen.toNat < 2 ^ (8 * (15 - l)))
      (hinit : modeInit C c n s.ccmAlen.toNat s.ccmMlen.toNat = some c') :
      minit C a l s = .ok (s.withSession c' (PhaseReg.start c .ready false) 0) :=
    minit_of_init hidle hconfig (minitChecks_of_legal hnonce hccm hin) (by rwa [hn] at hinit)
  refine ⟨fun hmode hH hEJ0 => ⟨?_, fun h12 => toNat_gcmJ0 e₁ (hlength.trans h12), fun hother => ?_⟩,
    fun hmode hfit hY hS0 => ?_, fun hmode hLstar hKtop => ⟨?_, ?_, toNat_ocbStretch e₂⟩⟩
  · rw [hstart (c' := { c with H := e₁, CB := gcmJ0 e₁ n, EJ0 := e₂ }) (by simp [hmode]), PhaseReg.start, hmode]
    · rfl
    · simp only [modeInit, hmode, gcmInit, hH, hEJ0, Option.bind_some, Option.map_some]
      rw [hc]
      rfl
  · rw [← hlength]
    refine gcmJ0_of_other e₁ (by rwa [hlength]) ?_
    unfold Config.BUF_BYTES at hin
    omega
  · rw [hstart (c' := { c with q := 15 - l, N := n, calen := s.ccmAlen.toNat, cmlen := s.ccmMlen.toNat, Y := e₁, S0 := e₂ })
      (fun _ => hfit), PhaseReg.start, hmode]
    · rfl
    · simp only [modeInit, hmode, ccmInit, hlength, hY, hS0, Option.bind_some, Option.map_some]
      rw [hc]
      rfl
  · rw [hstart (c' := { c with Lstar := e₁, Ldollar := ocbDouble e₁
                               Off := (ocbStretch e₂ >>> (64 - (ocbNonce c.taglen n).toNat % 64)).truncate 128 })
      (by simp [hmode]), PhaseReg.start, hmode]
    · rfl
    · simp only [modeInit, hmode, ocbInit, hLstar, hKtop, Option.bind_some, Option.map_some]
      rw [hc]
      rfl
  · simp only [nonceLegal, hmode, decide_eq_true_eq] at hnonce
    rw [← hlength]
    exact toNat_ocbNonce _ (by omega)

end Sys2Proof.Proofs
end

section
/-! How MAAD absorbs the AAD in GCM, CCM and OCB (44_mode_session.md R130, 47_mode_ccm.md R155, 48_mode_ocb.md R164). -/

namespace Sys2Proof.Proofs

open Sys2Proof.Machine Sys2Proof.Laws

/-! ## Strings of blocks -/

/-- A block of 16 bytes, read back. -/
theorem blockOf_blockBytes_16 (b : Block) : blockOf (blockBytes 16 b) = b := by
  have hfit : b.toNat < 256 ^ 16 := b.isLt
  rw [blockOf, be_blockBytes hfit, BitVec.ofNat_toNat, BitVec.setWidth_eq]

/-- The first string of a sequence, and the sequence that begins behind it. -/
theorem flatMap_range_succ (n : Nat) (f : Nat → Bytes) :
    (List.range (n + 1)).flatMap f = f 0 ++ (List.range n).flatMap fun k => f (k + 1) := by
  rw [List.range_succ_eq_map, List.flatMap_cons, List.flatMap_map]

theorem map_range_succ {α : Type} (n : Nat) (f : Nat → α) :
    (List.range (n + 1)).map f = f 0 :: (List.range n).map fun k => f (k + 1) := by
  rw [List.range_succ_eq_map, List.map_cons, List.map_map]
  rfl

theorem length_flatMap_range {size : Nat} (n : Nat) {f : Nat → Bytes} (hf : ∀ k, (f k).length = size) :
    ((List.range n).flatMap f).length = size * n := by
  induction n generalizing f with
  | zero => rfl
  | succ n ih =>
    rw [flatMap_range_succ, List.length_append, hf, ih fun k => hf (k + 1), Nat.mul_add_one, Nat.add_comm]

/-- The pieces of a sequence of strings of one length are those strings. -/
theorem pieces_flatMap_range {size : Nat} (n : Nat) {f : Nat → Bytes} (hf : ∀ k, (f k).length = size) (x : Bytes) :
    pieces size n ((List.range n).flatMap f ++ x) = (List.range n).map f := by
  induction n generalizing f with
  | zero => rfl
  | succ n ih =>
    rw [flatMap_range_succ, map_range_succ, List.append_assoc, pieces_append (hf 0), ih fun k => hf (k + 1)]

/-! ## CCM -/

/-- The chain over `n` blocks, from the values that the collaborator gives. -/
theorem cbcMac_range (C : Cipher) (n : Nat) (b y : Nat → Block) (hcalls : ∀ k < n, C.E (y k ^^^ b k) = some (y (k + 1))) :
    cbcMac C (y 0) ((List.range n).map b) = some (y n) := by
  induction n generalizing b y with
  | zero => rfl
  | succ n ih =>
    rw [map_range_succ, cbcMac, hcalls 0 (Nat.zero_lt_succ n), Option.bind_some]
    exact ih (fun k => b (k + 1)) (fun k => y (k + 1)) fun k hk => hcalls (k + 1) (Nat.succ_lt_succ hk)

/-- The length field of the AAD, short and long (47_mode_ccm.md R155). -/
theorem be_ccmAadPrefix {n : Nat} (hn : n ≤ 65535) :
    be (ccmAadPrefix n) = if n < 0xFF00 then n else 0xFFFE * 2 ^ 32 + n := by
  unfold ccmAadPrefix
  split
  · rw [be_beBytes, Nat.mod_eq_of_lt (by omega)]
  · have hmark : be [0xFF#8, 0xFE#8] = 0xFFFE := by decide
    rw [be_append, be_beBytes, length_beBytes, hmark, Nat.mod_eq_of_lt (by omega)]
    rfl

theorem length_ccmAadPrefix (n : Nat) : (ccmAadPrefix n).length = if n < 0xFF00 then 2 else 6 := by
  unfold ccmAadPrefix
  split
  · exact length_beBytes 2 n
  · rw [List.length_append, length_beBytes]
    rfl

/-! ## OCB -/

/-- The 1 bit behind the data, and zeros (48_mode_ocb.md R162). -/
theorem toNat_ocbPad1 {x : Bytes} (hx : x.length < 16) :
    (ocbPad1 x).toNat = be x * 256 ^ (16 - x.length) + 0x80 * 256 ^ (15 - x.length) := by
  have hcount : 16 - x.length = 15 - x.length + 1 := by omega
  have hbit : be [0x80#8] = 0x80 := by decide
  rw [ocbPad1, toNat_blockOf, be_append_zeros, be_append, hbit, List.length_singleton, hcount]
  · ring
  · simp only [List.length_append, List.length_singleton, List.length_replicate]
    omega

/-- The loop of HASH over `n` blocks, the first being number `j + 1`. -/
theorem ocbHashLoop_range (C : Cipher) (ldollar : Block) (n j : Nat) (p e o sum : Nat → Block)
    (hcalls : ∀ k < n, o (k + 1) = o k ^^^ ocbL ldollar (ntz (j + k + 1)) ∧ C.E (p k ^^^ o (k + 1)) = some (e k)
      ∧ sum (k + 1) = sum k ^^^ e k) :
    ocbHashLoop C ldollar (j + 1) (o 0) (sum 0) ((List.range n).map p) = some (o n, sum n) := by
  induction n generalizing j p e o sum with
  | zero => rfl
  | succ n ih =>
    obtain ⟨hoffset, hcall, hsum⟩ := hcalls 0 (Nat.zero_lt_succ n)
    rw [Nat.zero_add, Nat.add_zero] at hoffset
    rw [Nat.zero_add] at hcall hsum
    rw [map_range_succ, ocbHashLoop, ← hoffset, hcall, Option.bind_some, ← hsum]
    refine ih (j + 1) (fun k => p (k + 1)) (fun k => e (k + 1)) (fun k => o (k + 1)) (fun k => sum (k + 1)) fun k hk => ?_
    have hnumber : j + 1 + k + 1 = j + (k + 1) + 1 := by omega
    rw [hnumber]
    exact hcalls (k + 1) (Nat.succ_lt_succ hk)

section
variable {C : Cipher} {lstar ldollar : Block} {n : Nat} {p : Nat → Block} {x : Bytes}

/-- HASH splits the data into its blocks and the rest. -/
theorem ocbHash_eq (hx : x.length < 16) :
    ocbHash C lstar ldollar (((List.range n).flatMap fun k => blockBytes 16 (p k)) ++ x)
      = (ocbHashLoop C ldollar 1 0 0 ((List.range n).map p)).bind fun (o, sum) =>
          if x.length = 0 then some sum else (C.E (ocbPad1 x ^^^ (o ^^^ lstar))).map fun e => sum ^^^ e := by
  have hblocks : ((List.range n).flatMap fun k => blockBytes 16 (p k)).length = 16 * n :=
    length_flatMap_range n fun k => length_blockBytes 16 (p k)
  have hcount : (((List.range n).flatMap fun k => blockBytes 16 (p k)) ++ x).length / 16 = n := by
    rw [List.length_append, hblocks]
    omega
  have hpieces : (pieces 16 n (((List.range n).flatMap fun k => blockBytes 16 (p k)) ++ x)).map blockOf
      = (List.range n).map p := by
    rw [pieces_flatMap_range n fun k => length_blockBytes 16 (p k), List.map_map]
    exact List.map_congr_left fun k _ => blockOf_blockBytes_16 (p k)
  simp only [ocbHash, hcount, hpieces, List.drop_left' hblocks]

end

theorem ocbHash_nil (C : Cipher) (lstar ldollar : Block) : ocbHash C lstar ldollar [] = some 0 := rfl

/-! ## MAAD -/

section
variable {a l : Nat} {s : State} (hready : s.phase.ph = .ready) (haad : s.phase.aadDone = false)
include hready haad

theorem not_maadForbidden (hauth : s.ctx.mode.isAuth = true) : ¬MaadForbidden s := by
  simp [MaadForbidden, hready, haad, hauth]

theorem maadChecks_eq_none (hauth : s.ctx.mode.isAuth = true) (hlength : s.ctx.mode = .ccm → l = s.ctx.calen)
    (hin : a + l ≤ Config.BUF_BYTES) : firstFault (maadChecks a l s) = none :=
  (orderedChecks_maad a l s).none_iff.mpr
    ⟨not_maadForbidden hready haad hauth, fun ⟨hccm, hne⟩ => hne (hlength hccm), Nat.not_lt.mpr hin⟩

end

/-- Settles O34: MAAD's end with each mode's Aad, and the blocks and chains that CCM and OCB make of the AAD. -/
theorem maadAbsorbs : Obligations.MaadAbsorbs := by
  unfold Obligations.MaadAbsorbs
  refine ⟨fun s w rest a l hqueue hready haad hin => ⟨fun hmode => ?_, fun hmode hcalen hl => ?_, fun hmode hl => ?_,
      fun hmode hl => ?_, fun C y hmode hpos hl hmac => ?_, fun C h hmode hhash => ?_⟩,
    fun n hn => ⟨be_ccmAadPrefix hn, length_ccmAadPrefix n⟩,
    ⟨paddedBlocks_nil, fun x y => ⟨fun hx => paddedBlocks_append hx y, paddedBlocks_of_short⟩⟩, cbcMac_range,
    fun C lstar ldollar n p e o sum x ho hsum hcalls => ?_, fun x => toNat_ocbPad1⟩
  · have hpass := maadChecks_eq_none hready haad (by rw [hmode]; rfl) (by simp [hmode]) hin
    have haad' : modeAad Config.cipher s.ctx (s.buf.readBytes a l)
        = some { s.ctx with X := ghashFold s.ctx.H s.ctx.X (s.buf.readBytes a l), alen := l } := by
      simp only [modeAad, hmode, gcmAad, length_readBytes]
    rw [exec_maad, maad_of_aad hpass haad']
    exact finish_ok_eq_completed hqueue
  · have hpass := maadChecks_eq_none hready haad (by rw [hmode]; rfl) (fun _ => hl.trans hcalen.symm) hin
    have haad' : modeAad Config.cipher s.ctx (s.buf.readBytes a l) = some s.ctx := by
      simp only [modeAad, hmode, ccmAad, length_readBytes, hl, if_true]
    rw [exec_maad, maad_of_aad hpass haad']
    exact finish_ok_eq_completed hqueue
  · have hpass := maadChecks_eq_none hready haad (by rw [hmode]; rfl) (by simp [hmode]) hin
    have haad' : modeAad Config.cipher s.ctx (s.buf.readBytes a l) = some { s.ctx with HA := 0 } := by
      rw [hl]
      simp only [modeAad, hmode, ocbAad, Memory.readBytes, ocbHash_nil, Option.map_some]
    rw [exec_maad, maad_of_aad hpass haad']
    exact finish_ok_eq_completed hqueue
  · have hallowed := not_maadForbidden hready haad (by rw [hmode]; rfl)
    rw [exec_maad, maad_of_fault ((orderedChecks_maad a l s).second hallowed ⟨hmode, hl⟩)]
    exact finish_raise_eq_faulted _ hqueue
  · have hpass := maadChecks_eq_none hready haad (by rw [hmode]; rfl) (fun _ => hl) hin
    refine maad_of_aad hpass ?_
    rw [modeAad, hmode]
    simp only [ccmAad, length_readBytes, if_neg hpos.ne', hmac, Option.map_some]
  · have hpass := maadChecks_eq_none hready haad (by rw [hmode]; rfl) (by simp [hmode]) hin
    refine maad_of_aad hpass ?_
    rw [modeAad, hmode]
    simp only [ocbAad, hhash, Option.map_some]
  · have hloop : ocbHashLoop C ldollar 1 0 0 ((List.range n).map p) = some (o n, sum n) := by
      have hrange := ocbHashLoop_range C ldollar n 0 p e o sum (by simpa using hcalls)
      rwa [ho, hsum] at hrange
    refine ⟨fun hx => ?_, fun hpos hshort f hf => ?_⟩
    · rw [ocbHash_eq (by rw [hx]; decide), hloop, Option.bind_some]
      exact if_pos (by rw [hx]; rfl)
    · rw [ocbHash_eq hshort, hloop, Option.bind_some]
      simp only [if_neg hpos.ne', hf, Option.map_some]

end Sys2Proof.Proofs
end

section
/-! Run over whole blocks and over a tail, mode by mode (45_mode_basic.md, 46_mode_gcm.md, 47_mode_ccm.md, 48_mode_ocb.md). -/

namespace Sys2Proof.Proofs

open Sys2Proof.Machine Sys2Proof.Laws

/-! ## Blocks of the collaborator's size -/

theorem cut_of_wide {C : Cipher} (hwide : C.wide = true) (b : Block) : C.cut b = b := by rw [Cipher.cut, if_pos hwide]

theorem bs_of_wide {C : Cipher} (hwide : C.wide = true) : C.bs = 16 := by rw [Cipher.bs, if_pos hwide]

theorem toNat_cut (C : Cipher) (b : Block) : (C.cut b).toNat = b.toNat % 256 ^ C.bs := by
  unfold Cipher.cut Cipher.bs
  split
  · exact (Nat.mod_eq_of_lt b.isLt).symm
  · rw [BitVec.toNat_and]
    exact Nat.and_two_pow_sub_one_eq_mod b.toNat 64

theorem blockOf_blockBytes {C : Cipher} {b : Block} (hcut : C.cut b = b) : blockOf (blockBytes C.bs b) = b := by
  rw [blockOf, be_blockBytes (toNat_lt_of_cut_eq_self hcut), BitVec.ofNat_toNat, BitVec.setWidth_eq]

/-! ## Run over a sequence of segments -/

/-- Run over `n` segments, from what Step makes of each in the context that the one before it left. -/
theorem run_segments (C : Cipher) (n : Nat) (x o : Nat → Bytes) (ctx : Nat → Ctx)
    (hx : ∀ k < n, (x k).length = segmentSize C (ctx k))
    (hstep : ∀ k < n, modeStep C (ctx k) (x k) = some (o k, ctx (k + 1))) :
    run C (ctx 0) ((List.range n).flatMap x) = { out := (List.range n).flatMap o, ctx := ctx n, ok := true } := by
  induction n generalizing x o ctx with
  | zero => exact run_nil C (ctx 0)
  | succ n ih =>
    rw [flatMap_range_succ, flatMap_range_succ, run_append_of_segment C _ (hx 0 (Nat.zero_lt_succ n)),
      runOne_of_some _ _ _ (hstep 0 (Nat.zero_lt_succ n)),
      ih (fun k => x (k + 1)) (fun k => o (k + 1)) (fun k => ctx (k + 1)) (fun k hk => hx (k + 1) (Nat.succ_lt_succ hk))
        fun k hk => hstep (k + 1) (Nat.succ_lt_succ hk)]
    rfl

/-- Run over `n` whole blocks in a mode that steps by blocks. -/
theorem run_blocks {C : Cipher} {n : Nat} {p o : Nat → Block} {ctx : Nat → Ctx}
    {step : Cipher → Ctx → Block → Option (Block × Ctx)} (hcut : ∀ k < n, C.cut (p k) = p k)
    (hsize : ∀ k, segmentSize C (ctx k) = C.bs) (hmode : ∀ k x, modeStep C (ctx k) x = onBlock C step (ctx k) x)
    (hstep : ∀ k < n, step C (ctx k) (p k) = some (o k, ctx (k + 1))) :
    run C (ctx 0) ((List.range n).flatMap fun k => blockBytes C.bs (p k))
      = { out := (List.range n).flatMap fun k => blockBytes C.bs (o k), ctx := ctx n, ok := true } := by
  refine run_segments C n _ _ ctx (fun k _ => (length_blockBytes _ _).trans (hsize k).symm) fun k hk => ?_
  rw [hmode, onBlock, blockOf_blockBytes (hcut k hk), hstep k hk, Option.map_some]

/-! ## The unauthenticated modes -/

/-- The context `c` with the chain value `v`. -/
def withV (c : Ctx) (v : Block) : Ctx := { c with V := v }

/-- Every mode but CFB-8 steps by blocks. -/
theorem segmentSize_of_block {C : Cipher} {c : Ctx} (hseg : c.seg = .block) : segmentSize C c = C.bs :=
  if_neg fun hbyte => by rw [hseg] at hbyte; nomatch hbyte.2

section
variable {C : Cipher} {c : Ctx} {n : Nat} {p e v : Nat → Block} (henc : c.dir = .encrypt) (hseg : c.seg = .block)
  (hcut : ∀ k < n, C.cut (p k) = p k)
include hseg hcut

include henc in
theorem run_ecb (hmode : c.mode = .ecb) (hcalls : ∀ k < n, C.E (p k) = some (e k)) :
    run C c ((List.range n).flatMap fun k => blockBytes C.bs (p k))
      = { out := (List.range n).flatMap fun k => blockBytes C.bs (e k), ctx := c, ok := true } := by
  refine run_blocks (ctx := fun _ => c) (step := ecbStep) hcut (fun _ => segmentSize_of_block hseg)
    (fun _ x => by rw [modeStep, hmode]) fun k hk => ?_
  simp only [ecbStep, henc, hcalls k hk, Option.map_some]

/-- A mode that keeps the chain value `v k` before block `k`. -/
theorem run_chained {o : Nat → Block} {step : Cipher → Ctx → Block → Option (Block × Ctx)} (hv : v 0 = c.V)
    (hmode : ∀ k x, modeStep C (withV c (v k)) x = onBlock C step (withV c (v k)) x)
    (hstep : ∀ k < n, step C (withV c (v k)) (p k) = some (o k, withV c (v (k + 1)))) :
    run C c ((List.range n).flatMap fun k => blockBytes C.bs (p k))
      = { out := (List.range n).flatMap fun k => blockBytes C.bs (o k), ctx := withV c (v n), ok := true } := by
  have hstart : withV c (v 0) = c := by rw [hv, withV]
  have hrun := run_blocks (ctx := fun k => withV c (v k)) hcut (fun _ => segmentSize_of_block hseg) hmode hstep
  rwa [hstart] at hrun

include henc in
theorem run_cbc (hmode : c.mode = .cbc) (hv : v 0 = c.V)
    (hcalls : ∀ k < n, C.E (p k ^^^ v k) = some (e k) ∧ v (k + 1) = e k) :
    run C c ((List.range n).flatMap fun k => blockBytes C.bs (p k))
      = { out := (List.range n).flatMap fun k => blockBytes C.bs (e k), ctx := { c with V := v n }, ok := true } := by
  refine run_chained (step := cbcStep) hseg hcut hv (fun _ x => by simp only [modeStep, withV, hmode]) fun k hk => ?_
  obtain ⟨hcall, hnext⟩ := hcalls k hk
  simp only [cbcStep, withV, henc, hcall, hnext, Option.map_some]

include henc in
theorem run_pcbc (hmode : c.mode = .pcbc) (hv : v 0 = c.V)
    (hcalls : ∀ k < n, C.E (p k ^^^ v k) = some (e k) ∧ v (k + 1) = p k ^^^ e k) :
    run C c ((List.range n).flatMap fun k => blockBytes C.bs (p k))
      = { out := (List.range n).flatMap fun k => blockBytes C.bs (e k), ctx := { c with V := v n }, ok := true } := by
  refine run_chained (step := pcbcStep) hseg hcut hv (fun _ x => by simp only [modeStep, withV, hmode]) fun k hk => ?_
  obtain ⟨hcall, hnext⟩ := hcalls k hk
  simp only [pcbcStep, withV, henc, hcall, hnext, Option.map_some]

include henc in
theorem run_cfb (hmode : c.mode = .cfb) (hv : v 0 = c.V)
    (hcalls : ∀ k < n, C.E (v k) = some (e k) ∧ v (k + 1) = p k ^^^ e k) :
    run C c ((List.range n).flatMap fun k => blockBytes C.bs (p k))
      = { out := (List.range n).flatMap fun k => blockBytes C.bs (p k ^^^ e k), ctx := { c with V := v n }, ok := true } := by
  refine run_chained (step := cfbStep) hseg hcut hv (fun _ x => by simp only [modeStep, withV, hmode, hseg]) fun k hk => ?_
  obtain ⟨hcall, hnext⟩ := hcalls k hk
  simp only [cfbStep, withV, henc, hcall, hnext, Option.map_some]

theorem run_ofb (hmode : c.mode = .ofb) (hv : v 0 = c.V) (hcalls : ∀ k < n, C.E (v k) = some (e k) ∧ v (k + 1) = e k) :
    run C c ((List.range n).flatMap fun k => blockBytes C.bs (p k))
      = { out := (List.range n).flatMap fun k => blockBytes C.bs (p k ^^^ e k), ctx := { c with V := v n }, ok := true } := by
  refine run_chained (step := ofbStep) hseg hcut hv (fun _ x => by simp only [modeStep, withV, hmode]) fun k hk => ?_
  obtain ⟨hcall, hnext⟩ := hcalls k hk
  simp only [ofbStep, withV, hcall, hnext, Option.map_some]

theorem run_ctr (hmode : c.mode = .ctr) (hv : v 0 = c.CTR)
    (hcalls : ∀ k < n, C.E (v k) = some (e k) ∧ v (k + 1) = ctrNext C (v k)) :
    run C c ((List.range n).flatMap fun k => blockBytes C.bs (p k))
      = { out := (List.range n).flatMap fun k => blockBytes C.bs (p k ^^^ e k), ctx := { c with CTR := v n }, ok := true } := by
  have hstart : { c with CTR := v 0 } = c := by rw [hv]
  have hrun := run_blocks (o := fun k => p k ^^^ e k) (ctx := fun k => { c with CTR := v k }) (step := ctrStep) hcut
    (fun _ => segmentSize_of_block hseg) (fun _ x => by simp only [modeStep, hmode]) fun k hk => by
      obtain ⟨hcall, hnext⟩ := hcalls k hk
      simp only [ctrStep, hcall, hnext, Option.map_some]
  rwa [hstart] at hrun

end

/-! ## CFB-8 -/

/-- The first byte of a block. -/
theorem blockBytes_succ (n : Nat) (b : Block) :
    blockBytes (n + 1) b = BitVec.ofNat 8 (b.toNat / 256 ^ n) :: blockBytes n b := by
  rw [blockBytes, beBytes, Nat.shiftRight_eq_div_pow, Nat.pow_mul]
  rfl

/-- The shift register drops its first byte and takes another at its end (45_mode_basic.md R139). -/
theorem blockOf_shifted (C : Cipher) (v : Block) (y : Byte) :
    blockOf ((blockBytes C.bs v).drop 1 ++ [y]) = C.cut ((v <<< 8) ||| y.zeroExtend 128) := by
  have hbyte : be [y] = y.toNat := by rw [be_cons]; simp [be]
  have hvalue : ((v <<< 8) ||| y.zeroExtend 128).toNat = v.toNat * 256 % 2 ^ 128 + y.toNat := by
    have hsplit : v.toNat * 256 % 2 ^ 128 = (v.toNat % 2 ^ 120) <<< 8 := by
      rw [Nat.shiftLeft_eq]
      omega
    rw [BitVec.toNat_or, BitVec.toNat_shiftLeft, BitVec.toNat_setWidth_of_le (by decide), Nat.shiftLeft_eq, hsplit,
      ← Nat.shiftLeft_add_eq_or_of_lt y.isLt]
  have hy := y.isLt
  have hv := v.isLt
  obtain ⟨m, hm⟩ : ∃ m, C.bs = m + 1 := by
    obtain h8 | h16 := bs_eq C
    · exact ⟨7, h8⟩
    · exact ⟨15, h16⟩
  refine BitVec.eq_of_toNat_eq ?_
  rw [toNat_cut, hvalue, hm, blockBytes_succ, List.drop_one, List.tail_cons, toNat_blockOf, be_append, hbyte, blockBytes,
    be_beBytes, List.length_singleton, Nat.pow_one]
  · obtain h8 | h16 := bs_eq C
    · obtain rfl : m = 7 := by omega
      omega
    · obtain rfl : m = 15 := by omega
      omega
  · have hle := bs_le_16 C
    rw [List.length_append, length_blockBytes, List.length_singleton]
    omega

theorem map_eq_flatMap_singleton (n : Nat) (f : Nat → Byte) : (List.range n).map f = (List.range n).flatMap fun k => [f k] :=
  List.map_eq_flatMap

/-- CFB-8 byte by byte, in both directions. -/
theorem run_cfb8 {C : Cipher} {c : Ctx} {n : Nat} {p o : Nat → Byte} {e v : Nat → Block} (hmode : c.mode = .cfb)
    (hseg : c.seg = .byte) (hv : v 0 = c.V)
    (hcalls : ∀ k < n, C.E (v k) = some (e k) ∧ o k = p k ^^^ BitVec.ofNat 8 ((e k).toNat / 256 ^ (C.bs - 1))
      ∧ v (k + 1) = C.cut ((v k <<< 8) ||| (if c.dir = .encrypt then o k else p k).zeroExtend 128)) :
    run C c ((List.range n).map p) = { out := (List.range n).map o, ctx := { c with V := v n }, ok := true } := by
  have hstart : withV c (v 0) = c := by rw [hv, withV]
  have hrun := run_segments C n (fun k => [p k]) (fun k => [o k]) (fun k => withV c (v k))
    (fun k _ => (if_pos ⟨hmode, hseg⟩).symm) fun k hk => by
      obtain ⟨hcall, hout, hnext⟩ := hcalls k hk
      have hbs := segmentSize_le_bs C c
      have hpos := segmentSize_pos C c
      have hfirst : xorBytes [p k] (blockBytes C.bs (e k)) = [o k] := by
        obtain ⟨m, hm⟩ : ∃ m, C.bs = m + 1 := ⟨C.bs - 1, by omega⟩
        rw [hout, hm, blockBytes_succ]
        rfl
      rw [hnext, ← blockOf_shifted]
      cases hdir : c.dir <;>
        simp only [modeStep, cfb8Step, withV, hmode, hseg, hcall, hdir, hfirst, Option.map_some, if_true, reduceCtorEq,
          if_false]
  rw [hstart] at hrun
  rw [map_eq_flatMap_singleton, map_eq_flatMap_singleton]
  exact hrun

/-! ## The tails of CFB, OFB and CTR -/

/-- A tail that succeeds is all of Run. -/
theorem run_of_tail {C : Cipher} {c c' : Ctx} {x o : Bytes} (hpos : 0 < x.length) (hshort : x.length < segmentSize C c)
    (htail : modeTail C c x = some (o, c')) : run C c x = { out := o, ctx := c', ok := true } := by
  rw [run_of_short C c hpos hshort, runOne_of_some _ _ _ htail]

theorem run_out_of_tail {C : Cipher} {c : Ctx} {x o : Bytes} (hpos : 0 < x.length) (hshort : x.length < segmentSize C c)
    (hout : (modeTail C c x).map Prod.fst = some o) : (run C c x).out = o ∧ (run C c x).ok = true := by
  obtain ⟨⟨o', c'⟩, htail, rfl⟩ := Option.map_eq_some_iff.mp hout
  rw [run_of_tail hpos hshort htail]
  exact ⟨rfl, rfl⟩

theorem run_stream_tail {C : Cipher} {c : Ctx} {x : Bytes} {e : Block} (hpos : 0 < x.length) (hshort : x.length < C.bs)
    (h : (c.mode = .cfb ∧ c.seg = .block ∧ C.E c.V = some e) ∨ (c.mode = .ofb ∧ C.E c.V = some e)
      ∨ (c.mode = .ctr ∧ C.E c.CTR = some e)) :
    (run C c x).out = xorBytes x (blockBytes C.bs e) ∧ (run C c x).ok = true := by
  obtain ⟨hmode, hseg, hcall⟩ | ⟨hmode, hcall⟩ | ⟨hmode, hcall⟩ := h
  · refine run_out_of_tail hpos (by rwa [segmentSize_of_block hseg]) ?_
    simp only [modeTail, hmode, cfbTail, hcall, Option.map_some]
  · refine run_out_of_tail hpos (by rwa [segmentSize_of_ne_cfb (by simp [hmode])]) ?_
    simp only [modeTail, hmode, ofbTail, hcall, Option.map_some]
  · refine run_out_of_tail hpos (by rwa [segmentSize_of_ne_cfb (by simp [hmode])]) ?_
    simp only [modeTail, hmode, ctrTail, hcall, Option.map_some]

/-- Settles O44, mode by mode. -/
theorem basicModesEncryptBlockByBlock : Obligations.BasicModesEncryptBlockByBlock := by
  unfold Obligations.BasicModesEncryptBlockByBlock
  refine ⟨fun C c n p e v msg hmsg henc hseg hcut => ?_, fun C c n p o e v => run_cfb8, fun C c x e => run_stream_tail⟩
  simp only [hmsg]
  exact ⟨run_ecb henc hseg hcut, run_cbc henc hseg hcut, run_pcbc henc hseg hcut, run_cfb henc hseg hcut, run_ofb hseg hcut,
    run_ctr hseg hcut⟩

/-! ## GCM, CCM and OCB -/

section
variable {C : Cipher} {c : Ctx} {n : Nat} {p e m v x : Nat → Block} (hwide : C.wide = true) (henc : c.dir = .encrypt)
include hwide

/-- Run over `n` blocks of 16 bytes, from the contexts between them. -/
theorem run_wide_blocks {o : Nat → Block} {ctx : Nat → Ctx} {step : Cipher → Ctx → Block → Option (Block × Ctx)}
    (hstart : ctx 0 = c) (hcfb : ∀ k, (ctx k).mode ≠ .cfb) (hmode : ∀ k x, modeStep C (ctx k) x = onBlock C step (ctx k) x)
    (hstep : ∀ k < n, step C (ctx k) (p k) = some (o k, ctx (k + 1))) :
    run C c ((List.range n).flatMap fun k => blockBytes 16 (p k))
      = { out := (List.range n).flatMap fun k => blockBytes 16 (o k), ctx := ctx n, ok := true } := by
  have hrun := run_blocks (fun k _ => cut_of_wide hwide (p k)) (fun k => segmentSize_of_ne_cfb (hcfb k)) hmode hstep
  rwa [hstart, bs_of_wide hwide] at hrun

include henc in
theorem run_gcm (hmode : c.mode = .gcm) (hv : v 0 = c.CB) (hx : x 0 = c.X)
    (hcalls : ∀ k < n, v (k + 1) = inc32 (v k) ∧ C.E (v (k + 1)) = some (e k)
      ∧ x (k + 1) = gcmMul (x k ^^^ (p k ^^^ e k)) c.H) :
    run C c ((List.range n).flatMap fun k => blockBytes 16 (p k))
      = { out := (List.range n).flatMap fun k => blockBytes 16 (p k ^^^ e k)
          ctx := { c with CB := v n, X := x n, clen := c.clen + 16 * n }, ok := true } := by
  refine run_wide_blocks hwide (ctx := fun k => { c with CB := v k, X := x k, clen := c.clen + 16 * k })
    (step := gcmStep) (by rw [hv, hx, Nat.mul_zero, Nat.add_zero]) (fun k => by simp [hmode])
    (fun _ x => by simp only [modeStep, hmode]) fun k hk => ?_
  obtain ⟨hcounter, hcall, hfold⟩ := hcalls k hk
  rw [hcounter] at hcall ⊢
  simp only [gcmStep, henc, hcall, hfold, Option.map_some, Nat.mul_add_one, ← Nat.add_assoc]

include henc in
theorem run_ccm (hmode : c.mode = .ccm) (hx : x 0 = c.Y)
    (hcalls : ∀ k < n, C.E (ccmA c.q c.N (c.i + k + 1)) = some (e k) ∧ C.E (x k ^^^ p k) = some (m k) ∧ x (k + 1) = m k) :
    run C c ((List.range n).flatMap fun k => blockBytes 16 (p k))
      = { out := (List.range n).flatMap fun k => blockBytes 16 (p k ^^^ e k)
          ctx := { c with i := c.i + n, Y := x n }, ok := true } := by
  refine run_wide_blocks hwide (ctx := fun k => { c with i := c.i + k, Y := x k }) (step := ccmStep)
    (by rw [hx, Nat.add_zero]) (fun k => by simp [hmode]) (fun _ x => by simp only [modeStep, hmode]) fun k hk => ?_
  obtain ⟨hkey, hmac, hnext⟩ := hcalls k hk
  simp only [ccmStep, henc, hkey, hmac, hnext, Option.bind_some, Option.map_some, ← Nat.add_assoc]

include henc in
theorem run_ocb (hmode : c.mode = .ocb) (hv : v 0 = c.Off) (hx : x 0 = c.Chk)
    (hcalls : ∀ k < n, v (k + 1) = v k ^^^ ocbL c.Ldollar (ntz (c.i + k + 1)) ∧ C.E (p k ^^^ v (k + 1)) = some (e k)
      ∧ x (k + 1) = x k ^^^ p k) :
    run C c ((List.range n).flatMap fun k => blockBytes 16 (p k))
      = { out := (List.range n).flatMap fun k => blockBytes 16 (v (k + 1) ^^^ e k)
          ctx := { c with i := c.i + n, Off := v n, Chk := x n }, ok := true } := by
  refine run_wide_blocks hwide (o := fun k => v (k + 1) ^^^ e k)
    (ctx := fun k => { c with i := c.i + k, Off := v k, Chk := x k }) (step := ocbStep)
    (by rw [hv, hx, Nat.add_zero]) (fun k => by simp [hmode]) (fun _ x => by simp only [modeStep, hmode]) fun k hk => ?_
  obtain ⟨hoffset, hcall, hsum⟩ := hcalls k hk
  rw [hoffset] at hcall ⊢
  simp only [ocbStep, henc, hcall, hsum, Option.map_some, ← Nat.add_assoc]

end

/-! ## The tails of GCM, CCM and OCB -/

section
variable {C : Cipher} {c : Ctx} {x o ct pt : Bytes} {e m : Block} (hwide : C.wide = true) (hpos : 0 < x.length)
  (hshort : x.length < 16)
include hshort

/-- The tail's input and output are of one length. -/
theorem length_tail_side (ho : o = xorBytes x (blockBytes 16 e)) (p : Prop) [Decidable p] :
    (if p then o else x).length = x.length := by
  split
  · rw [ho]
    exact length_xorBytes_blockBytes hshort.le e
  · rfl

include hpos

/-- The tail, zero-padded, as a block. -/
theorem zeroPadded_tail {y : Bytes} (hy : y.length = x.length) :
    BitVec.ofNat 128 (be y * 256 ^ (16 - x.length)) = blockOf (zeroPad16 y) := by
  rw [blockOf_zeroPad16 (by omega) (by omega), hy]

include hwide

theorem run_wide_tail {c' : Ctx} (hcfb : c.mode ≠ .cfb) (htail : modeTail C c x = some (o, c')) :
    run C c x = { out := o, ctx := c', ok := true } :=
  run_of_tail hpos (by rwa [segmentSize_of_ne_cfb hcfb, bs_of_wide hwide]) htail

variable (ho : o = xorBytes x (blockBytes 16 e))
include ho

theorem run_gcm_tail (hct : ct = if c.dir = .encrypt then o else x) (hmode : c.mode = .gcm)
    (hcall : C.E (inc32 c.CB) = some e) :
    run C c x =
      { out := o
        ctx := { c with
          CB := inc32 c.CB
          X := gcmMul (c.X ^^^ BitVec.ofNat 128 (be ct * 256 ^ (16 - x.length))) c.H
          clen := c.clen + x.length }
        ok := true } := by
  rw [zeroPadded_tail hpos hshort (by rw [hct]; exact length_tail_side hshort ho _), hct]
  refine run_wide_tail hwide hpos hshort (by simp [hmode]) ?_
  simp only [modeTail, hmode, gcmTail, hcall, Option.map_some, ← ho]
  cases c.dir <;> rfl

theorem run_ccm_tail (hpt : pt = if c.dir = .encrypt then x else o) (hmode : c.mode = .ccm)
    (hkey : C.E (ccmA c.q c.N (c.i + 1)) = some e)
    (hmac : C.E (c.Y ^^^ BitVec.ofNat 128 (be pt * 256 ^ (16 - x.length))) = some m) :
    run C c x = { out := o, ctx := { c with i := c.i + 1, Y := m }, ok := true } := by
  rw [← ite_not] at hpt
  rw [zeroPadded_tail hpos hshort (by rw [hpt]; exact length_tail_side hshort ho _), hpt] at hmac
  refine run_wide_tail hwide hpos hshort (by simp [hmode]) ?_
  simp only [modeTail, hmode, ccmTail, hkey, Option.bind_some, ← ho]
  cases hdir : c.dir <;> simp only [hdir, not_true_eq_false, reduceCtorEq, not_false_eq_true, if_true, if_false] at hmac ⊢ <;>
    rw [hmac, Option.map_some]

theorem run_ocb_tail (hpt : pt = if c.dir = .encrypt then x else o) (hmode : c.mode = .ocb)
    (hcall : C.E (c.Off ^^^ c.Lstar) = some e) :
    run C c x = { out := o, ctx := { c with Off := c.Off ^^^ c.Lstar, Chk := c.Chk ^^^ ocbPad1 pt }, ok := true } := by
  rw [hpt]
  refine run_wide_tail hwide hpos hshort (by simp [hmode]) ?_
  simp only [modeTail, hmode, ocbTail, hcall, Option.map_some, ← ho]
  cases c.dir <;> rfl

end

/-- Settles O45, mode by mode. -/
theorem authenticatedModesEncryptBlockByBlock : Obligations.AuthenticatedModesEncryptBlockByBlock := by
  unfold Obligations.AuthenticatedModesEncryptBlockByBlock
  refine ⟨fun C c n p e m v x msg hmsg hwide henc => ?_, fun C c x o ct pt e m hwide hpos hshort ho hct hpt =>
    ⟨run_gcm_tail hwide hpos hshort ho hct, run_ccm_tail hwide hpos hshort ho hpt, run_ocb_tail hwide hpos hshort ho hpt⟩⟩
  simp only [hmsg]
  exact ⟨run_gcm hwide henc, run_ccm hwide henc, run_ocb hwide henc⟩

end Sys2Proof.Proofs
end

section
/-! Decryption inverts encryption: a step and a tail are undone in the same context, so Run is (95_test_vectors.md L1.6). -/

namespace Sys2Proof.Proofs

open Sys2Proof.Machine Sys2Proof.Laws

/-! ## Blocks of the collaborator's size -/

theorem cut_eq_self_of_lt {C : Cipher} {b : Block} (h : b.toNat < 256 ^ C.bs) : C.cut b = b :=
  BitVec.eq_of_toNat_eq (by rw [toNat_cut, Nat.mod_eq_of_lt h])

theorem cut_xor (C : Cipher) (a b : Block) : C.cut (a ^^^ b) = C.cut a ^^^ C.cut b := by
  unfold Cipher.cut
  split
  · rfl
  · exact BitVec.eq_of_getLsbD_eq fun i _ => by simp only [BitVec.getLsbD_and, BitVec.getLsbD_xor, Bool.and_xor_distrib_right]

theorem cut_xor_eq_self {C : Cipher} {a b : Block} (ha : C.cut a = a) (hb : C.cut b = b) : C.cut (a ^^^ b) = a ^^^ b := by
  rw [cut_xor, ha, hb]

theorem cut_of_E {C : Cipher} {b y : Block} (h : C.E b = some y) : C.cut y = y := by
  obtain ⟨z, -, rfl⟩ := Option.map_eq_some_iff.mp h
  refine cut_eq_self_of_lt ?_
  rw [toNat_cut]
  exact Nat.mod_lt _ (by positivity)

section
variable {C : Cipher} {s : Bytes} (hs : s.length = C.bs)
include hs

theorem cut_blockOf : C.cut (blockOf s) = blockOf s := by
  refine cut_eq_self_of_lt ?_
  rw [toNat_blockOf (hs.trans_le (bs_le_16 C)), ← hs]
  exact be_lt s

theorem blockBytes_blockOf : blockBytes C.bs (blockOf s) = s := by
  rw [blockBytes, toNat_blockOf (hs.trans_le (bs_le_16 C)), ← hs, beBytes_be]

end

theorem xor_xor_cancel (a b : Block) : a ^^^ b ^^^ b = a := by
  rw [BitVec.xor_assoc, BitVec.xor_self, BitVec.xor_zero]

/-- A keystream undoes itself. -/
theorem xorBytes_xorBytes {x k : Bytes} (h : x.length ≤ k.length) : xorBytes (xorBytes x k) k = x := by
  refine List.ext_getElem (by simp [xorBytes, h]) fun i _ _ => ?_
  simp only [xorBytes, List.getElem_zipWith]
  rw [BitVec.xor_assoc, BitVec.xor_self, BitVec.xor_zero]

theorem xorBytes_keystream {x : Bytes} {n : Nat} (h : x.length ≤ n) (k : Block) :
    xorBytes (xorBytes x (blockBytes n k)) (blockBytes n k) = x :=
  xorBytes_xorBytes (h.trans_eq (length_blockBytes n k).symm)

/-! ## Steps undone -/

/-- The context `c` in a decrypting session. -/
def decrypting (c : Ctx) : Ctx := { c with dir := .decrypt }

/-- E never fails, and D inverts it on the blocks of the collaborator's size. -/
def InvertibleCipher (C : Cipher) : Prop := ∀ b, ∃ y, C.E b = some y ∧ (C.cut b = b → C.D y = some b)

/-- What `f` makes of `x` in the context `c`, it turns back in the decrypting context, and the contexts left agree. -/
def Undone {α : Type} (f : Ctx → α → Option (α × Ctx)) (c : Ctx) (x o : α) (c' : Ctx) : Prop :=
  f c x = some (o, c') ∧ f (decrypting c) o = some (x, decrypting c')

/-- A step on blocks, undone: the output and the chain value left are blocks of the collaborator's size. -/
def BlockUndone (C : Cipher) (step : Cipher → Ctx → Block → Option (Block × Ctx)) (c : Ctx) (b : Block) : Prop :=
  ∃ o c', Undone (step C) c b o c' ∧ C.cut o = o ∧ C.cut c'.V = c'.V

section
variable {C : Cipher} {c : Ctx} (hC : InvertibleCipher C) (henc : c.dir = .encrypt) (hV : C.cut c.V = c.V)
include hC hV

section
variable {b : Block} (hb : C.cut b = b)
include hb

include henc in
theorem ecb_undone : BlockUndone C ecbStep c b := by
  obtain ⟨y, hE, hD⟩ := hC b
  refine ⟨y, c, ⟨?_, ?_⟩, cut_of_E hE, hV⟩
  · simp only [ecbStep, henc, hE, Option.map_some]
  · simp only [ecbStep, decrypting, hD hb, Option.map_some]

include henc in
theorem cbc_undone : BlockUndone C cbcStep c b := by
  obtain ⟨y, hE, hD⟩ := hC (b ^^^ c.V)
  refine ⟨y, { c with V := y }, ⟨?_, ?_⟩, cut_of_E hE, cut_of_E hE⟩
  · simp only [cbcStep, henc, hE, Option.map_some]
  · simp only [cbcStep, decrypting, hD (cut_xor_eq_self hb hV), Option.map_some, xor_xor_cancel]

include henc in
theorem pcbc_undone : BlockUndone C pcbcStep c b := by
  obtain ⟨y, hE, hD⟩ := hC (b ^^^ c.V)
  refine ⟨y, { c with V := b ^^^ y }, ⟨?_, ?_⟩, cut_of_E hE, cut_xor_eq_self hb (cut_of_E hE)⟩
  · simp only [pcbcStep, henc, hE, Option.map_some]
  · simp only [pcbcStep, decrypting, hD (cut_xor_eq_self hb hV), Option.map_some, xor_xor_cancel]

include henc in
omit hV in
theorem cfb_undone : BlockUndone C cfbStep c b := by
  obtain ⟨k, hE, -⟩ := hC c.V
  have hcut := cut_xor_eq_self hb (cut_of_E hE)
  refine ⟨b ^^^ k, { c with V := b ^^^ k }, ⟨?_, ?_⟩, hcut, hcut⟩
  · simp only [cfbStep, henc, hE, Option.map_some]
  · simp only [cfbStep, decrypting, hE, Option.map_some, xor_xor_cancel]

omit hV in
theorem ofb_undone : BlockUndone C ofbStep c b := by
  obtain ⟨k, hE, -⟩ := hC c.V
  refine ⟨b ^^^ k, { c with V := k }, ⟨?_, ?_⟩, cut_xor_eq_self hb (cut_of_E hE), cut_of_E hE⟩
  · simp only [ofbStep, hE, Option.map_some]
  · simp only [ofbStep, decrypting, hE, Option.map_some, xor_xor_cancel]

theorem ctr_undone : BlockUndone C ctrStep c b := by
  obtain ⟨k, hE, -⟩ := hC c.CTR
  refine ⟨b ^^^ k, { c with CTR := ctrNext C c.CTR }, ⟨?_, ?_⟩, cut_xor_eq_self hb (cut_of_E hE), hV⟩
  · simp only [ctrStep, hE, Option.map_some]
  · simp only [ctrStep, decrypting, hE, Option.map_some, xor_xor_cancel]

include henc in
theorem gcm_undone : BlockUndone C gcmStep c b := by
  obtain ⟨k, hE, -⟩ := hC (inc32 c.CB)
  refine ⟨b ^^^ k, { c with CB := inc32 c.CB, X := gcmMul (c.X ^^^ (b ^^^ k)) c.H, clen := c.clen + 16 }, ⟨?_, ?_⟩,
    cut_xor_eq_self hb (cut_of_E hE), hV⟩
  · simp only [gcmStep, henc, hE, Option.map_some]
  · simp only [gcmStep, decrypting, hE, Option.map_some, xor_xor_cancel]

include henc in
theorem ccm_undone : BlockUndone C ccmStep c b := by
  obtain ⟨k, hkey, -⟩ := hC (ccmA c.q c.N (c.i + 1))
  obtain ⟨y, hmac, -⟩ := hC (c.Y ^^^ b)
  refine ⟨b ^^^ k, { c with i := c.i + 1, Y := y }, ⟨?_, ?_⟩, cut_xor_eq_self hb (cut_of_E hkey), hV⟩
  · simp only [ccmStep, henc, hkey, hmac, Option.bind_some, Option.map_some]
  · simp only [ccmStep, decrypting, hkey, hmac, Option.bind_some, Option.map_some, xor_xor_cancel]

include henc in
omit hb in
theorem ocb_undone (hwide : C.wide = true) : BlockUndone C ocbStep c b := by
  obtain ⟨e, hE, hD⟩ := hC (b ^^^ (c.Off ^^^ ocbL c.Ldollar (ntz (c.i + 1))))
  have hD := hD (cut_of_wide hwide _)
  generalize hoff : c.Off ^^^ ocbL c.Ldollar (ntz (c.i + 1)) = off at hE hD
  have hback : off ^^^ e ^^^ off = e := by rw [BitVec.xor_comm off e, xor_xor_cancel]
  have hplain : off ^^^ (b ^^^ off) = b := by rw [BitVec.xor_comm off, xor_xor_cancel]
  refine ⟨off ^^^ e, { c with i := c.i + 1, Off := off, Chk := c.Chk ^^^ b }, ⟨?_, ?_⟩, cut_of_wide hwide _, hV⟩
  · simp only [ocbStep, henc, hoff, hE, Option.map_some]
  · simp only [ocbStep, decrypting, hoff, hback, hD, Option.map_some, hplain]

end

/-! ## Steps and tails of every mode -/

/-- A step on a string, undone. -/
def StepUndone (C : Cipher) (f : Ctx → Bytes → Option (Bytes × Ctx)) (c : Ctx) (x : Bytes) : Prop :=
  ∃ o c', Undone f c x o c' ∧ C.cut c'.V = c'.V

omit hC hV in
theorem onBlock_undone {step : Cipher → Ctx → Block → Option (Block × Ctx)} {x : Bytes} (hx : x.length = C.bs)
    (h : BlockUndone C step c (blockOf x)) : StepUndone C (onBlock C step) c x := by
  obtain ⟨o, c', ⟨hforth, hback⟩, hcut, hV'⟩ := h
  refine ⟨blockBytes C.bs o, c', ⟨?_, ?_⟩, hV'⟩
  · simp only [onBlock, hforth, Option.map_some]
  · simp only [onBlock, blockOf_blockBytes hcut, hback, Option.map_some, blockBytes_blockOf hx]

include henc in
omit hV in
theorem cfb8_undone {x : Bytes} (hx : x.length = 1) : StepUndone C (cfb8Step C) c x := by
  obtain ⟨k, hE, -⟩ := hC c.V
  have hbs := bs_eq C
  have hlength : (xorBytes x (blockBytes C.bs k)).length = x.length := length_xorBytes_blockBytes (by omega) k
  have hself : xorBytes (xorBytes x (blockBytes C.bs k)) (blockBytes C.bs k) = x := xorBytes_keystream (by omega) k
  refine ⟨xorBytes x (blockBytes C.bs k),
    { c with V := blockOf ((blockBytes C.bs c.V).drop 1 ++ xorBytes x (blockBytes C.bs k)) }, ⟨?_, ?_⟩, cut_blockOf ?_⟩
  · simp only [cfb8Step, henc, hE, Option.map_some]
  · simp only [cfb8Step, decrypting, hE, Option.map_some, hself]
  · rw [List.length_append, List.length_drop, length_blockBytes, hlength, hx]
    omega

end

/-- The step of a mode on blocks. -/
def blockStep : Mode → Cipher → Ctx → Block → Option (Block × Ctx)
  | .ecb => ecbStep
  | .cbc => cbcStep
  | .pcbc => pcbcStep
  | .cfb => cfbStep
  | .ofb => ofbStep
  | .ctr => ctrStep
  | .gcm => gcmStep
  | .ccm => ccmStep
  | .ocb => ocbStep

/-- Every mode but CFB-8 steps by blocks. -/
theorem modeStep_eq_onBlock (C : Cipher) {c : Ctx} (h : ¬(c.mode = .cfb ∧ c.seg = .byte)) :
    modeStep C c = onBlock C (blockStep c.mode) c := by
  funext x
  cases hm : c.mode with
  | cfb =>
    cases hseg : c.seg with
    | block => simp only [modeStep, hm, hseg, blockStep]
    | byte => exact absurd ⟨hm, hseg⟩ h
  | ecb | cbc | pcbc | ofb | ctr | gcm | ccm | ocb => simp only [modeStep, hm, blockStep]

section
variable {C : Cipher} {c : Ctx} (hC : InvertibleCipher C) (henc : c.dir = .encrypt)
include hC henc

theorem blockStep_undone (hV : C.cut c.V = c.V) (hwide : c.mode.isAuth = true → C.wide = true) {b : Block}
    (hb : C.cut b = b) : BlockUndone C (blockStep c.mode) c b := by
  cases hm : c.mode with
  | ecb => exact ecb_undone hC henc hV hb
  | cbc => exact cbc_undone hC henc hV hb
  | pcbc => exact pcbc_undone hC henc hV hb
  | cfb => exact cfb_undone hC henc hb
  | ofb => exact ofb_undone hC hb
  | ctr => exact ctr_undone hC hV hb
  | gcm => exact gcm_undone hC henc hV hb
  | ccm => exact ccm_undone hC henc hV hb
  | ocb => exact ocb_undone hC henc hV (hwide (by rw [hm]; rfl))

/-- A whole segment is undone. -/
theorem modeStep_undone (hV : C.cut c.V = c.V) (hwide : c.mode.isAuth = true → C.wide = true) {x : Bytes}
    (hx : x.length = segmentSize C c) : StepUndone C (modeStep C) c x := by
  by_cases hbyte : c.mode = .cfb ∧ c.seg = .byte
  · obtain ⟨hm, hseg⟩ := hbyte
    obtain ⟨o, c', ⟨hforth, hback⟩, hV'⟩ := cfb8_undone hC henc (hx.trans (if_pos ⟨hm, hseg⟩))
    refine ⟨o, c', ⟨?_, ?_⟩, hV'⟩
    · simp only [modeStep, hm, hseg, hforth]
    · simpa only [modeStep, decrypting, hm, hseg] using hback
  · have hlength : x.length = C.bs := hx.trans (if_neg hbyte)
    obtain ⟨o, c', ⟨hforth, hback⟩, hV'⟩ := onBlock_undone hlength (blockStep_undone hC henc hV hwide (cut_blockOf hlength))
    refine ⟨o, c', ⟨?_, ?_⟩, hV'⟩
    · rwa [modeStep_eq_onBlock C hbyte]
    · rwa [modeStep_eq_onBlock C (c := decrypting c) hbyte]

/-! ## Tails undone -/

section
variable {x : Bytes} (hx : x.length ≤ 16)
include hx

theorem gcmTail_undone : ∃ o c', Undone (gcmTail C) c x o c' := by
  obtain ⟨k, hE, -⟩ := hC (inc32 c.CB)
  refine ⟨xorBytes x (blockBytes 16 k),
    { c with
      CB := inc32 c.CB
      X := gcmMul (c.X ^^^ blockOf (zeroPad16 (xorBytes x (blockBytes 16 k)))) c.H
      clen := c.clen + x.length }, ?_, ?_⟩
  · simp only [gcmTail, henc, hE, Option.map_some]
  · simp only [gcmTail, decrypting, hE, Option.map_some, xorBytes_keystream hx, length_xorBytes_blockBytes hx]

theorem ccmTail_undone : ∃ o c', Undone (ccmTail C) c x o c' := by
  obtain ⟨k, hkey, -⟩ := hC (ccmA c.q c.N (c.i + 1))
  obtain ⟨y, hmac, -⟩ := hC (c.Y ^^^ blockOf (zeroPad16 x))
  refine ⟨xorBytes x (blockBytes 16 k), { c with i := c.i + 1, Y := y }, ?_, ?_⟩
  · simp only [ccmTail, henc, hkey, hmac, Option.bind_some, Option.map_some]
  · simp only [ccmTail, decrypting, hkey, hmac, Option.bind_some, Option.map_some, xorBytes_keystream hx]

theorem ocbTail_undone : ∃ o c', Undone (ocbTail C) c x o c' := by
  obtain ⟨k, hE, -⟩ := hC (c.Off ^^^ c.Lstar)
  refine ⟨xorBytes x (blockBytes 16 k), { c with Off := c.Off ^^^ c.Lstar, Chk := c.Chk ^^^ ocbPad1 x }, ?_, ?_⟩
  · simp only [ocbTail, henc, hE, Option.map_some]
  · simp only [ocbTail, decrypting, hE, Option.map_some, xorBytes_keystream hx]

end

/-- A tail is undone, in the modes that have one. -/
theorem modeTail_undone {x : Bytes} (hstream : c.mode.isBlock = false) (hx : x.length ≤ C.bs) :
    ∃ o c', Undone (modeTail C) c x o c' := by
  have hself (k : Block) : xorBytes (xorBytes x (blockBytes C.bs k)) (blockBytes C.bs k) = x := xorBytes_keystream hx k
  have hx16 := hx.trans (bs_le_16 C)
  cases hm : c.mode with
  | ecb | cbc | pcbc =>
    rw [hm] at hstream
    nomatch hstream
  | cfb =>
    obtain ⟨k, hE, -⟩ := hC c.V
    refine ⟨xorBytes x (blockBytes C.bs k), c, ?_, ?_⟩
    · simp only [modeTail, hm, cfbTail, hE, Option.map_some]
    · simp only [modeTail, decrypting, hm, cfbTail, hE, Option.map_some, hself]
  | ofb =>
    obtain ⟨k, hE, -⟩ := hC c.V
    refine ⟨xorBytes x (blockBytes C.bs k), { c with V := k }, ?_, ?_⟩
    · simp only [modeTail, hm, ofbTail, hE, Option.map_some]
    · simp only [modeTail, decrypting, hm, ofbTail, hE, Option.map_some, hself]
  | ctr =>
    obtain ⟨k, hE, -⟩ := hC c.CTR
    refine ⟨xorBytes x (blockBytes C.bs k), { c with CTR := ctrNext C c.CTR }, ?_, ?_⟩
    · simp only [modeTail, hm, ctrTail, hE, Option.map_some]
    · simp only [modeTail, decrypting, hm, ctrTail, hE, Option.map_some, hself]
  | gcm =>
    obtain ⟨o, c', hforth, hback⟩ := gcmTail_undone hC henc hx16
    exact ⟨o, c', by simpa only [modeTail, hm] using hforth, by simpa only [modeTail, decrypting, hm] using hback⟩
  | ccm =>
    obtain ⟨o, c', hforth, hback⟩ := ccmTail_undone hC henc hx16
    exact ⟨o, c', by simpa only [modeTail, hm] using hforth, by simpa only [modeTail, decrypting, hm] using hback⟩
  | ocb =>
    obtain ⟨o, c', hforth, hback⟩ := ocbTail_undone hC henc hx16
    exact ⟨o, c', by simpa only [modeTail, hm] using hforth, by simpa only [modeTail, decrypting, hm] using hback⟩

end

/-! ## Run undone -/

/-- Whole segments of a block mode leave whole segments. -/
theorem mod_bs_of_append {C : Cipher} {x y : Bytes} (hx : x.length = C.bs) (h : (x ++ y).length % C.bs = 0) :
    y.length % C.bs = 0 := by
  rwa [List.length_append, hx, Nat.add_mod_left] at h

theorem segmentSize_of_isBlock {C : Cipher} {c : Ctx} (h : c.mode.isBlock = true) : segmentSize C c = C.bs :=
  segmentSize_of_ne_cfb fun hcfb => by rw [hcfb] at h; nomatch h

/-- What an encryption makes of the data, the decryption from the same context turns back, and leaves the same context. -/
theorem run_decrypting_run {C : Cipher} (hC : InvertibleCipher C) (c : Ctx) (x : Bytes) (henc : c.dir = .encrypt)
    (hwide : c.mode.isAuth = true → C.wide = true) (hV : C.cut c.V = c.V)
    (hwhole : c.mode.isBlock = true → x.length % C.bs = 0) :
    run C (decrypting c) (run C c x).out = { out := x, ctx := decrypting (run C c x).ctx, ok := true } := by
  induction c, x using run_induction C with
  | nil c =>
    rw [run_nil]
    exact run_nil C (decrypting c)
  | short c x hpos hshort =>
    have hstream : c.mode.isBlock = false := Bool.eq_false_iff.mpr fun hblock => by
      have hzero := hwhole hblock
      rw [segmentSize_of_isBlock hblock] at hshort
      rw [Nat.mod_eq_of_lt hshort] at hzero
      omega
    obtain ⟨o, c', hforth, hback⟩ := modeTail_undone hC henc hstream (hshort.trans_le (segmentSize_le_bs C c)).le
    have hlength : o.length = x.length := (modeTail_spec hshort hforth).1
    rw [run_of_tail hpos hshort hforth]
    exact run_of_tail (by rwa [hlength]) (by rwa [hlength]) hback
  | segment c x y hx ih =>
    obtain ⟨o, c', ⟨hforth, hback⟩, hV'⟩ := modeStep_undone hC henc hV hwide hx
    obtain ⟨hlength, hsame⟩ := modeStep_spec hx hforth
    rw [runOne_of_some _ _ _ hforth] at ih
    have hrest := ih (hsame.dir.trans henc) (by rwa [hsame.mode]) hV' fun hblock => by
      rw [hsame.mode] at hblock
      exact mod_bs_of_append (hx.trans (segmentSize_of_isBlock hblock)) (hwhole hblock)
    rw [run_append_of_segment C c hx, runOne_of_some _ _ _ hforth]
    change run C (decrypting c) (o ++ (run C c' y).out) = _
    rw [run_append_of_segment C (decrypting c) (hlength.trans hx), runOne_of_some _ _ _ hback, hrest]
    rfl

/-- Settles O47, by induction along Run: each segment and the tail is undone. -/
theorem decryptionInvertsEncryption : Obligations.DecryptionInvertsEncryption := by
  unfold Obligations.DecryptionInvertsEncryption
  intro C c x hC hwide hV hwhole
  have hrun := run_decrypting_run hC { c with dir := .encrypt } x rfl hwide hV hwhole
  change run C { c with dir := .decrypt } _ = _ at hrun
  rw [hrun]
  exact ⟨rfl, rfl⟩

end Sys2Proof.Proofs
end

section
/-! A session's result does not depend on how its data is split between commands (44_mode_session.md R131): Run over two
pieces, and an MPROC before another data command. -/

namespace Sys2Proof.Proofs

open Sys2Proof.Machine Sys2Proof.Laws

/-! ## Run does not look at the count of processed bytes -/

/-- The context `c` with `n` processed bytes. -/
def withProcessed (n : Nat) (c : Ctx) : Ctx := { c with processed := n }

section
variable (n : Nat) (c : Ctx)

@[simp] theorem withProcessed_mode : (withProcessed n c).mode = c.mode := rfl
@[simp] theorem withProcessed_dir : (withProcessed n c).dir = c.dir := rfl

end

/-- A result with `n` processed bytes. -/
def RunResult.withProcessed (n : Nat) (r : RunResult) : RunResult := { r with ctx := Proofs.withProcessed n r.ctx }

/-- `f` gives the same output in a context with another count, and leaves that count. -/
def IgnoresProcessed {α : Type} (f : Ctx → α → Option (α × Ctx)) : Prop :=
  ∀ n c x, f (withProcessed n c) x = (f c x).map fun p => (p.1, withProcessed n p.2)

theorem blockStep_ignoresProcessed (C : Cipher) (m : Mode) : IgnoresProcessed (blockStep m C) := by
  intro n c b
  cases m with
  | ecb =>
    simp only [blockStep, ecbStep, withProcessed_dir]
    cases c.dir <;> simp only [Option.map_map] <;> rfl
  | cbc =>
    simp only [blockStep, cbcStep, withProcessed]
    cases c.dir <;> simp only [Option.map_map] <;> rfl
  | pcbc =>
    simp only [blockStep, pcbcStep, withProcessed]
    cases c.dir <;> simp only [Option.map_map] <;> rfl
  | cfb =>
    simp only [blockStep, cfbStep, withProcessed, Option.map_map]
    cases c.dir <;> rfl
  | ofb =>
    simp only [blockStep, ofbStep, withProcessed, Option.map_map]
    rfl
  | ctr =>
    simp only [blockStep, ctrStep, withProcessed, Option.map_map]
    rfl
  | gcm =>
    simp only [blockStep, gcmStep, withProcessed, Option.map_map]
    rfl
  | ccm =>
    simp only [blockStep, ccmStep, withProcessed, Option.map_bind, Function.comp_def, Option.map_map]
  | ocb =>
    simp only [blockStep, ocbStep, withProcessed]
    cases c.dir <;> simp only [Option.map_map] <;> rfl

theorem modeStep_ignoresProcessed (C : Cipher) : IgnoresProcessed (modeStep C) := by
  intro n c x
  by_cases hbyte : c.mode = .cfb ∧ c.seg = .byte
  · obtain ⟨hmode, hseg⟩ := hbyte
    simp only [modeStep, withProcessed, hmode, hseg, cfb8Step, Option.map_map]
    rfl
  · rw [modeStep_eq_onBlock C hbyte, modeStep_eq_onBlock C (c := withProcessed n c) hbyte]
    have hstep := blockStep_ignoresProcessed C c.mode n c (blockOf x)
    change onBlock C (blockStep c.mode) (withProcessed n c) x = _
    rw [onBlock, hstep, onBlock, Option.map_map, Option.map_map]
    rfl

theorem modeTail_ignoresProcessed (C : Cipher) : IgnoresProcessed (modeTail C) := by
  intro n c x
  cases hmode : c.mode with
  | ecb | cbc | pcbc => simp only [modeTail, withProcessed_mode, hmode, Option.map_none]
  | cfb =>
    simp only [modeTail, withProcessed_mode, hmode, cfbTail, Option.map_map]
    rfl
  | ofb =>
    simp only [modeTail, withProcessed_mode, hmode, ofbTail, Option.map_map]
    rfl
  | ctr =>
    simp only [modeTail, withProcessed_mode, hmode, ctrTail, Option.map_map]
    rfl
  | gcm =>
    simp only [modeTail, withProcessed, hmode, gcmTail, Option.map_map]
    rfl
  | ccm =>
    simp only [modeTail, withProcessed, hmode, ccmTail, Option.map_bind, Function.comp_def, Option.map_map]
  | ocb =>
    simp only [modeTail, withProcessed_mode, hmode, ocbTail, Option.map_map]
    rfl

theorem runOne_withProcessed {f : Ctx → Bytes → Option (Bytes × Ctx)} (hf : IgnoresProcessed f) (n : Nat) (c : Ctx) (x : Bytes) :
    runOne f (runStart (withProcessed n c)) x = RunResult.withProcessed n (runOne f (runStart c) x) := by
  cases h : f c x with
  | none => rw [runOne_of_none f c x h, runOne_of_none f _ x (by rw [hf, h, Option.map_none]), RunResult.withProcessed]
  | some p => rw [runOne_of_some f c x h, runOne_of_some f _ x (by rw [hf, h, Option.map_some]), RunResult.withProcessed]

theorem run_withProcessed (C : Cipher) (n : Nat) (c : Ctx) (x : Bytes) :
    run C (withProcessed n c) x = RunResult.withProcessed n (run C c x) := by
  induction c, x using run_induction C with
  | nil c =>
    rw [run_nil, run_nil]
    rfl
  | short c x hpos hshort =>
    rw [run_of_short C c hpos hshort, run_of_short C (withProcessed n c) hpos hshort,
      runOne_withProcessed (modeTail_ignoresProcessed C)]
  | segment c x y hx ih =>
    rw [run_append_of_segment C c hx, run_append_of_segment C (withProcessed n c) hx,
      runOne_withProcessed (modeStep_ignoresProcessed C)]
    change RunResult.andThen _ (run C (withProcessed n _) y) = _
    rw [ih]
    rfl

/-! ## BUF in two pieces -/

theorem readBytes_add (m : Memory) (a n k : Nat) : m.readBytes a (n + k) = m.readBytes a n ++ m.readBytes (a + n) k := by
  induction n generalizing a with
  | zero => rw [Nat.zero_add, Nat.add_zero]; rfl
  | succ n ih =>
    have haddr : a + (n + 1) = a + 1 + n := by omega
    rw [Nat.succ_add, Memory.readBytes, Memory.readBytes, ih, haddr, List.cons_append]

theorem writeBytes_append (m : Memory) (a : Nat) (x y : Bytes) :
    m.writeBytes a (x ++ y) = (m.writeBytes a x).writeBytes (a + x.length) y := by
  induction x generalizing m a with
  | nil => rfl
  | cons b x ih =>
    have haddr : a + (b :: x).length = a + 1 + x.length := by rw [List.length_cons]; omega
    rw [List.cons_append, Memory.writeBytes, Memory.writeBytes, ih, haddr]

/-- A region that a write leaves alone reads as before. -/
theorem readBytes_writeBytes_of_disjoint {m : Memory} (hwf : m.wf) {b : Nat} {v : Bytes} (hin : b + v.length ≤ Config.BUF_BYTES)
    {a n : Nat} (hdisjoint : ∀ x, b ≤ x → x < b + v.length → x < a ∨ a + n ≤ x) :
    (m.writeBytes b v).readBytes a n = m.readBytes a n := by
  refine List.ext_getElem (by rw [length_readBytes, length_readBytes]) fun k hk _ => ?_
  rw [length_readBytes] at hk
  rw [getElem_readBytes, getElem_readBytes]
  refine read_writeBytes_other v m b (a + k) hwf hin ?_
  by_contra hinside
  have := hdisjoint (a + k) (by omega) (by omega)
  omega

/-! ## Padding in two pieces -/

theorem padLen_add {bs : Nat} (pad : Pad) {n : Nat} (hn : n % bs = 0) (k : Nat) : padLen bs pad (n + k) = padLen bs pad k := by
  have hmod : (n + k) % bs = k % bs := by rw [Nat.add_mod, hn, Nat.zero_add, Nat.mod_mod]
  cases pad <;> simp only [padLen, hmod]

theorem padAdd_append {bs : Nat} (pad : Pad) {x : Bytes} (hx : x.length % bs = 0) (y : Bytes) :
    padAdd bs pad (x ++ y) = x ++ padAdd bs pad y := by
  cases pad with
  | none => rfl
  | pkcs7 | zero => simp only [padAdd, List.length_append, padLen_add _ hx, List.append_assoc]

theorem take_append_sub {x y : Bytes} {n : Nat} (hn : n ≤ y.length) :
    (x ++ y).take ((x ++ y).length - n) = x ++ y.take (y.length - n) := by
  have hcount : (x ++ y).length - n = x.length + (y.length - n) := by
    rw [List.length_append]
    omega
  rw [hcount, List.take_length_add_append]

/-- Padding stands in the last block, so what comes before it stays. -/
theorem padRemove_append {bs : Nat} (hbs : 0 < bs) {pad : Pad} {y : Bytes} (hy : pad ≠ .none → bs ≤ y.length) (x : Bytes) :
    padRemove bs pad (x ++ y) = (padRemove bs pad y).map (x ++ ·) := by
  cases pad with
  | none => rfl
  | pkcs7 =>
    have hlength := hy (by decide)
    have hlast : (x ++ y).getLastD 0#8 = y.getLastD 0#8 := by
      rw [List.getLastD_eq_getLast?, List.getLastD_eq_getLast?, List.getLast?_append_of_ne_nil]
      rintro rfl
      rw [List.length_nil] at hlength
      omega
    simp only [padRemove, hlast, List.length_append]
    by_cases hbad : (y.getLastD 0#8).toNat = 0 ∨ bs < (y.getLastD 0#8).toNat
    · rw [if_pos (by omega), if_pos (by omega), Option.map_none]
    · rw [if_neg (by omega), if_neg (by omega), Option.map_some, ← List.length_append, take_append_sub (by omega)]
  | zero =>
    have hlength := hy (by decide)
    have hrun : trailingZeros bs (x ++ y) = trailingZeros bs y := by
      rw [trailingZeros, List.reverse_append, List.take_append_of_le_length (by rw [List.length_reverse]; omega), trailingZeros]
    have hle := trailingZeros_le bs y
    rw [padRemove_zero, padRemove_zero, Option.map_some, hrun, take_append_sub (by omega)]

end Sys2Proof.Proofs
end

section
/-! An MPROC before another data command, against the one command over all the data (44_mode_session.md R131, R132). -/

namespace Sys2Proof.Proofs

open Sys2Proof.Machine Sys2Proof.Laws

/-! ## The first command -/

/-- An MPROC of `l₁` bytes, with Run's result `r₁`, leads from `s` to `s₁`. -/
structure FirstMproc (C : Cipher) (a b l₁ : Nat) (r₁ : RunResult) (s s₁ : State) : Prop where
  accepted : MprocAccepted C s a b l₁
  ran : r₁ = run C s.ctx (s.buf.readBytes a l₁)
  ok : r₁.ok = true
  left : s₁ = mprocDone s b l₁ r₁ { s.phase with ph := .data }

theorem firstMproc_of_mproc {C : Cipher} {a b l₁ : Nat} {s s₁ : State} (h : mproc C a b l₁ s = .ok s₁) :
    ∃ r₁, FirstMproc C a b l₁ r₁ s s₁ := by
  obtain ⟨f, -, hraise⟩ | ⟨hpass, r₁, hrun, ⟨hok, hleft⟩ | ⟨-, hfailed⟩⟩ := mproc_cases C a b l₁ s
  · rw [hraise] at h
    nomatch h
  · rw [hleft] at h
    exact ⟨r₁, mprocChecks_eq_none_iff.mp hpass, hrun, hok, (Result.ok.inj h).symm⟩
  · rw [hfailed] at h
    nomatch h

/-- The first command's output overwrites nothing of the `l₂` bytes behind its input. -/
def KeepsRest (a b l₁ l₂ : Nat) : Prop := ∀ x, b ≤ x → x < b + l₁ → x < a + l₁ ∨ a + l₁ + l₂ ≤ x

namespace FirstMproc

section
variable {C : Cipher} {a b l₁ l₂ : Nat} {r₁ : RunResult} {s s₁ : State} (h : FirstMproc C a b l₁ r₁ s s₁)
include h

/-! ## What the second command finds -/

theorem ctx_eq : s₁.ctx = Proofs.withProcessed (s.ctx.processed + l₁) r₁.ctx := by
  rw [h.left]
  rfl

theorem buf_eq : s₁.buf = s.buf.writeBytes b r₁.out := by
  rw [h.left]
  rfl

theorem tagaddr_eq : s₁.tagaddr = s.tagaddr := by
  rw [h.left]
  rfl

theorem processed_eq : s₁.ctx.processed = s.ctx.processed + l₁ := by
  rw [h.ctx_eq]
  rfl

theorem sameSession : SameSession s.ctx r₁.ctx := by
  rw [h.ran]
  exact run_sameSession C _ _

theorem mode_eq : s₁.ctx.mode = s.ctx.mode := by
  rw [h.ctx_eq]
  exact h.sameSession.mode

theorem dir_eq : s₁.ctx.dir = s.ctx.dir := by
  rw [h.ctx_eq]
  exact h.sameSession.dir

theorem pad_eq : s₁.ctx.pad = s.ctx.pad := by
  rw [h.ctx_eq]
  exact h.sameSession.pad

theorem taglen_eq : s₁.ctx.taglen = s.ctx.taglen := by
  rw [h.ctx_eq]
  exact h.sameSession.taglen

theorem tagpl_eq : s₁.ctx.tagpl = s.ctx.tagpl := by
  rw [h.ctx_eq]
  exact h.sameSession.tagpl

theorem cmlen_eq : s₁.ctx.cmlen = s.ctx.cmlen := by
  rw [h.ctx_eq]
  exact h.sameSession.cmlen

theorem segmentSize_eq : segmentSize C s₁.ctx = segmentSize C s.ctx := by
  rw [h.ctx_eq]
  exact h.sameSession.segmentSize_eq C

theorem length_out : r₁.out.length = l₁ := by rw [h.ran, length_run, length_readBytes]

theorem out_in : b + r₁.out.length ≤ Config.BUF_BYTES := by
  obtain ⟨-, -, -, -, -, hout⟩ := h.accepted
  rwa [h.length_out]

theorem whole : l₁ % segmentSize C s.ctx = 0 := by
  obtain ⟨-, -, hwhole, -⟩ := h.accepted
  exact hwhole

/-- A region that the first output does not meet reads as before. -/
theorem readBytes_eq (hwf : s.buf.wf) {x n : Nat} (hdisjoint : ∀ y, b ≤ y → y < b + l₁ → y < x ∨ x + n ≤ y) :
    s₁.buf.readBytes x n = s.buf.readBytes x n := by
  rw [h.buf_eq]
  refine readBytes_writeBytes_of_disjoint hwf h.out_in ?_
  rwa [h.length_out]

/-! ## Run over both pieces -/

section
variable {y : Bytes} {r₂ r : RunResult} (hrun₂ : r₂ = run C s₁.ctx y) (hrun : r = run C s.ctx (s.buf.readBytes a l₁ ++ y))
include hrun₂ hrun

/-- Run over both pieces is the two results one after the other, but for the count. -/
theorem run_both : RunResult.withProcessed (s.ctx.processed + l₁) r = RunResult.andThen r₁ r₂ := by
  rw [hrun, run_append C s.ctx _ y (by rw [length_readBytes]; exact h.whole), ← h.ran, hrun₂, h.ctx_eq, run_withProcessed]
  rfl

theorem out_both : r.out = r₁.out ++ r₂.out := congrArg RunResult.out (h.run_both hrun₂ hrun)

theorem ok_both : r.ok = r₂.ok := by
  have hboth := congrArg RunResult.ok (h.run_both hrun₂ hrun)
  rwa [RunResult.andThen, h.ok, Bool.true_and] at hboth

/-- The contexts left agree once the second command has counted its bytes. -/
theorem finalCtx_both (n : Nat) : finalCtx s (l₁ + n) r = finalCtx s₁ n r₂ := by
  have hboth := congrArg (fun p => Proofs.withProcessed (s.ctx.processed + (l₁ + n)) p.ctx) (h.run_both hrun₂ hrun)
  rw [finalCtx, finalCtx, h.processed_eq, Nat.add_assoc]
  exact hboth

theorem buf_both : s.buf.writeBytes b r.out = s₁.buf.writeBytes (b + l₁) r₂.out := by
  rw [h.out_both hrun₂ hrun, writeBytes_append, h.length_out, h.buf_eq]

end

/-- The state that the one command leaves, from that of the second of two. -/
theorem state_both {m : Memory} {c : Ctx} {p : PhaseReg} {n : Nat} :
    { s with buf := m }.withSession c p (l₁ + n)
      = { { s₁ with buf := m }.withSession c p n with outlen := BitVec.ofNat 32 l₁ + BitVec.ofNat 32 n } := by
  rw [h.left, ← BitVec.ofNat_add]
  rfl

/-! ## MPROC and then MPROC -/

theorem accepted_both (haccepted₂ : MprocAccepted C s₁ (a + l₁) (b + l₁) l₂) : MprocAccepted C s a b (l₁ + l₂) := by
  obtain ⟨hphase, haad, hwhole, hlength, hin, hout⟩ := h.accepted
  obtain ⟨-, -, hwhole₂, hlength₂, hin₂, hout₂⟩ := haccepted₂
  change l₂ % segmentSize C s₁.ctx = 0 at hwhole₂
  rw [h.segmentSize_eq] at hwhole₂
  rw [h.mode_eq, h.processed_eq, h.cmlen_eq] at hlength₂
  refine ⟨hphase, haad, ?_, fun hccm => ?_, by omega, by omega⟩
  · change (l₁ + l₂) % segmentSize C s.ctx = 0
    rw [Nat.add_mod, h.whole, hwhole₂, Nat.add_zero, Nat.zero_mod]
  · have := hlength₂ hccm
    omega

theorem mproc_both (hwf : s.buf.wf) (hkeep : KeepsRest a b l₁ l₂) {t : State}
    (ht : mproc C (a + l₁) (b + l₁) l₂ s₁ = .ok t) :
    mproc C a b (l₁ + l₂) s = .ok { t with outlen := BitVec.ofNat 32 l₁ + t.outlen } := by
  obtain ⟨r₂, haccepted₂, hrun₂, hok₂, hleft₂⟩ := firstMproc_of_mproc ht
  rw [h.readBytes_eq hwf hkeep] at hrun₂
  have hrun : run C s.ctx (s.buf.readBytes a (l₁ + l₂))
      = run C s.ctx (s.buf.readBytes a l₁ ++ s.buf.readBytes (a + l₁) l₂) := by rw [readBytes_add]
  rw [mproc_of_run (mprocChecks_eq_none_iff.mpr (h.accepted_both haccepted₂)) rfl
    (by rw [hrun, h.ok_both hrun₂ rfl, hok₂]), hleft₂]
  refine congrArg Result.ok ?_
  have hctx := h.finalCtx_both hrun₂ hrun l₂
  rw [finalCtx, finalCtx] at hctx
  rw [mprocDone, mprocDone, h.buf_both hrun₂ hrun, hctx, h.state_both, h.left]
  rfl

/-! ## The checks of MFINAL -/

theorem whole_block (hblock : s.ctx.mode.isBlock = true) : l₁ % C.bs = 0 := by
  rw [← segmentSize_of_isBlock hblock]
  exact h.whole

/-- The data lengths add up, the tag of the second command being all there. -/
theorem mfinalData_both (hfit : ¬MfinalLengthIllegal C s₁ l₂) :
    mfinalData s.ctx (l₁ + l₂) = l₁ + mfinalData s₁.ctx l₂ := by
  simp only [MfinalLengthIllegal, not_or, not_and, Nat.not_lt] at hfit
  obtain ⟨-, -, -, htag, -⟩ := hfit
  rw [h.mode_eq, h.dir_eq, h.tagpl_eq, h.taglen_eq] at htag
  rw [mfinalData, mfinalData, h.mode_eq, h.dir_eq, h.tagpl_eq, h.taglen_eq]
  split
  · next hcombined =>
    obtain ⟨hauth, hdec, hplace⟩ := hcombined
    have := htag hauth hdec hplace
    omega
  · rfl

theorem lengthLegal_both (hfit : ¬MfinalLengthIllegal C s₁ l₂) : ¬MfinalLengthIllegal C s (l₁ + l₂) := by
  have hdata := h.mfinalData_both hfit
  have hmod (hblock : s.ctx.mode.isBlock = true) : (l₁ + l₂) % C.bs = l₂ % C.bs := by
    rw [Nat.add_mod, h.whole_block hblock, Nat.zero_add, Nat.mod_mod]
  simp only [MfinalLengthIllegal, not_or, not_and, not_not, Nat.not_lt, hdata, h.mode_eq, h.dir_eq, h.tagpl_eq,
    h.taglen_eq, h.pad_eq, h.processed_eq, h.cmlen_eq, ne_eq] at hfit ⊢
  obtain ⟨haligned, hwhole, hblock, htag, hlength⟩ := hfit
  refine ⟨fun hb henc hpad => ?_, fun hb hdec => ?_, fun hb hdec hpad => ?_, fun hauth hdec hplace => ?_, fun hccm => ?_⟩
  · rw [hmod hb]
    exact haligned hb henc hpad
  · rw [hmod hb]
    exact hwhole hb hdec
  · exact (hblock hb hdec hpad).trans (Nat.le_add_left ..)
  · exact (htag hauth hdec hplace).trans (Nat.le_add_left ..)
  · rw [← Nat.add_assoc]
    exact hlength hccm

theorem finalPad_both : (if s.ctx.mode.isBlock = true ∧ s.ctx.dir = .encrypt then padLen C.bs s.ctx.pad (l₁ + l₂) else 0)
    = if s₁.ctx.mode.isBlock = true ∧ s₁.ctx.dir = .encrypt then padLen C.bs s₁.ctx.pad l₂ else 0 := by
  rw [h.mode_eq, h.dir_eq, h.pad_eq]
  split
  · next hb => exact padLen_add _ (h.whole_block hb.1) l₂
  · rfl

theorem boundsLegal_both (hfit : ¬MfinalLengthIllegal C s₁ l₂) (hin : ¬MfinalBoundsIllegal C s₁ (a + l₁) (b + l₁) l₂) :
    ¬MfinalBoundsIllegal C s a b (l₁ + l₂) := by
  rw [MfinalBoundsIllegal, h.mfinalData_both hfit, h.finalPad_both]
  rw [MfinalBoundsIllegal] at hin
  simp only [h.mode_eq, h.dir_eq, h.tagpl_eq, h.taglen_eq, h.tagaddr_eq, not_or, Nat.not_lt] at hin ⊢
  obtain ⟨hinput, houtput, htag⟩ := hin
  exact ⟨by omega, by omega, htag⟩

theorem mfinalChecks_both (hpass₂ : firstFault (mfinalChecks C (a + l₁) (b + l₁) l₂ s₁) = none) :
    firstFault (mfinalChecks C a b (l₁ + l₂) s) = none := by
  obtain ⟨-, hfit, hin⟩ := (orderedChecks_mfinal C (a + l₁) (b + l₁) l₂ s₁).none_iff.mp hpass₂
  obtain ⟨hphase, haad, -⟩ := h.accepted
  exact (orderedChecks_mfinal C a b (l₁ + l₂) s).none_iff.mpr
    ⟨not_takesNoData_iff.mpr ⟨hphase, haad⟩, h.lengthLegal_both hfit, h.boundsLegal_both hfit hin⟩

end

end FirstMproc

end Sys2Proof.Proofs
end

section
/-! An MPROC before an MFINAL, against the one MFINAL over all the data (44_mode_session.md R132). -/

namespace Sys2Proof.Proofs

open Sys2Proof.Machine Sys2Proof.Laws

/-- How the result of the one command follows from that of the second of two: the same state but for OUTLEN, or the same
PADDING or AUTH_FAIL. -/
def JoinedResult (l₁ : Nat) (second both : Result) : Prop :=
  (∀ t, second = .ok t → both = .ok { t with outlen := BitVec.ofNat 32 l₁ + t.outlen })
    ∧ ∀ f t, f = .padding ∨ f = .authFail → second = .raise f t →
        ∃ t', both = .raise f t' ∧ t'.phase = t.phase ∧ t'.outlen = t.outlen

theorem JoinedResult.done (l₁ : Nat) (t : State) :
    JoinedResult l₁ (.ok t) (.ok { t with outlen := BitVec.ofNat 32 l₁ + t.outlen }) := by
  refine ⟨fun t' h => ?_, fun f t' _ h => Result.noConfusion h⟩
  rw [Result.ok.inj h]

theorem JoinedResult.failed {l₁ : Nat} {f : FaultCode} {t t' : State} (hphase : t'.phase = t.phase)
    (houtlen : t'.outlen = t.outlen) : JoinedResult l₁ (.raise f t) (.raise f t') := by
  refine ⟨fun _ h => Result.noConfusion h, fun f' u _ h => ?_⟩
  obtain ⟨hf, ht⟩ := Result.raise.inj h
  rw [← hf, ← ht]
  exact ⟨t', rfl, hphase, houtlen⟩

/-- Other faults of the second command say nothing of the one command. -/
theorem JoinedResult.of_other_fault {l₁ : Nat} {f : FaultCode} {t : State} {both : Result} (hpadding : f ≠ .padding)
    (hauthFail : f ≠ .authFail) : JoinedResult l₁ (.raise f t) both := by
  refine ⟨fun _ h => Result.noConfusion h, fun f' u hf h => ?_⟩
  obtain ⟨hf', -⟩ := Result.raise.inj h
  rw [← hf'] at hf
  obtain hf | hf := hf
  · exact absurd hf hpadding
  · exact absurd hf hauthFail

namespace FirstMproc

section
variable {C : Cipher} {a b l₁ l₂ : Nat} {r₁ : RunResult} {s s₁ : State} (h : FirstMproc C a b l₁ r₁ s s₁)
include h

theorem write_both (v : Bytes) : s.buf.writeBytes b (r₁.out ++ v) = s₁.buf.writeBytes (b + l₁) v := by
  rw [writeBytes_append, h.length_out, h.buf_eq]

/-- The end of a session replaces the phase that MPROC left. -/
theorem phase_eq : s₁.phase = { s.phase with ph := .data } := by
  rw [h.left]
  rfl

/-! ## Authenticated modes -/

/-- A tag is written at the same place. -/
theorem writtenTagAddr_both (n : Nat) : writtenTagAddr s b (l₁ + n) = writtenTagAddr s₁ (b + l₁) n := by
  rw [writtenTagAddr, writtenTagAddr, h.tagpl_eq, h.tagaddr_eq]
  split
  · exact (Nat.add_assoc ..).symm
  · rfl

theorem taggedLen_both (n : Nat) : taggedLen s.ctx (l₁ + n) = l₁ + taggedLen s₁.ctx n := by
  rw [taggedLen, taggedLen, h.tagpl_eq, h.taglen_eq]
  split
  · exact Nat.add_assoc ..
  · rfl

/-- The data and a combined tag lie within the bytes that the second command takes. -/
theorem data_add_tag_le (hpass₂ : firstFault (mfinalChecks C (a + l₁) (b + l₁) l₂ s₁) = none) :
    finalDataLen s₁.ctx l₂ ≤ l₂ ∧ (s.ctx.mode.isAuth = true → s.ctx.dir = .decrypt → s.ctx.tagpl = .combined →
      finalDataLen s₁.ctx l₂ + s.ctx.taglen ≤ l₂) := by
  obtain ⟨-, hfit, -⟩ := (orderedChecks_mfinal C (a + l₁) (b + l₁) l₂ s₁).none_iff.mp hpass₂
  simp only [MfinalLengthIllegal, not_or, not_and, Nat.not_lt] at hfit
  obtain ⟨-, -, -, htag, -⟩ := hfit
  rw [h.mode_eq, h.dir_eq, h.tagpl_eq, h.taglen_eq] at htag
  rw [finalDataLen_eq, mfinalData, h.mode_eq, h.dir_eq, h.tagpl_eq, h.taglen_eq]
  refine ⟨?_, fun hauth hdec hplace => ?_⟩
  · split
    · exact Nat.sub_le _ _
    · exact Nat.le_refl _
  · have := htag hauth hdec hplace
    rw [if_pos ⟨hauth, hdec, hplace⟩]
    omega

theorem finalDataLen_both (hpass₂ : firstFault (mfinalChecks C (a + l₁) (b + l₁) l₂ s₁) = none) :
    finalDataLen s.ctx (l₁ + l₂) = l₁ + finalDataLen s₁.ctx l₂ := by
  obtain ⟨-, hfit, -⟩ := (orderedChecks_mfinal C (a + l₁) (b + l₁) l₂ s₁).none_iff.mp hpass₂
  rw [finalDataLen_eq, finalDataLen_eq]
  exact h.mfinalData_both hfit

/-- The tag received is the same, before the first command and after it. -/
theorem receivedTag_both (hwf : s.buf.wf) (hkeep : KeepsRest a b l₁ l₂)
    (hpass₂ : firstFault (mfinalChecks C (a + l₁) (b + l₁) l₂ s₁) = none) (hauth : s.ctx.mode.isAuth = true)
    (hdec : s.ctx.dir = .decrypt)
    (htagKeep : s.ctx.tagpl = .detached →
      ∀ x, b ≤ x → x < b + l₁ → x < s.tagaddr.toNat ∨ s.tagaddr.toNat + s.ctx.taglen ≤ x) :
    s₁.buf.readBytes (receivedTagAddr s₁ (a + l₁) (finalDataLen s₁.ctx l₂)) s₁.ctx.taglen
      = s.buf.readBytes (receivedTagAddr s a (l₁ + finalDataLen s₁.ctx l₂)) s.ctx.taglen := by
  obtain ⟨-, hfit⟩ := h.data_add_tag_le hpass₂
  rw [h.taglen_eq, receivedTagAddr, receivedTagAddr, h.tagpl_eq, h.tagaddr_eq]
  cases hplace : s.ctx.tagpl with
  | combined =>
    have hle := hfit hauth hdec hplace
    simp only [← Nat.add_assoc]
    refine h.readBytes_eq hwf fun x hb hlt => ?_
    obtain hx | hx := hkeep x hb hlt
    · exact .inl (by omega)
    · exact .inr (by omega)
  | detached => exact h.readBytes_eq hwf (htagKeep hplace)

variable (hwf : s.buf.wf) (hkeep : KeepsRest a b l₁ l₂)
  (hpass₂ : firstFault (mfinalChecks C (a + l₁) (b + l₁) l₂ s₁) = none)
include hwf hkeep hpass₂

theorem mfinal_auth_both (hauth : s.ctx.mode.isAuth = true)
    (htagKeep : s.ctx.dir = .decrypt → s.ctx.tagpl = .detached →
      ∀ x, b ≤ x → x < b + l₁ → x < s.tagaddr.toNat ∨ s.tagaddr.toNat + s.ctx.taglen ≤ x) :
    JoinedResult l₁ (mfinal C (a + l₁) (b + l₁) l₂ s₁) (mfinal C a b (l₁ + l₂) s) := by
  have hauth₁ : s₁.ctx.mode.isAuth = true := by rwa [h.mode_eq]
  have hpass := h.mfinalChecks_both hpass₂
  have hdata := h.finalDataLen_both hpass₂
  obtain ⟨hle, -⟩ := h.data_add_tag_le hpass₂
  obtain ⟨n, hn⟩ : ∃ n, n = finalDataLen s₁.ctx l₂ := ⟨_, rfl⟩
  have hinput : s₁.buf.readBytes (a + l₁) n = s.buf.readBytes (a + l₁) n :=
    h.readBytes_eq hwf fun x hb hlt => by
      obtain hx | hx := hkeep x hb hlt
      · exact .inl hx
      · exact .inr (by omega)
  obtain ⟨r₂, hr₂⟩ : ∃ r₂, r₂ = run C s₁.ctx (s₁.buf.readBytes (a + l₁) n) := ⟨_, rfl⟩
  obtain ⟨r, hr⟩ : ∃ r, r = run C s.ctx (s.buf.readBytes a (l₁ + n)) := ⟨_, rfl⟩
  have hrun₂ : r₂ = run C s₁.ctx (s.buf.readBytes (a + l₁) n) := by rw [hr₂, hinput]
  have hrun : r = run C s.ctx (s.buf.readBytes a l₁ ++ s.buf.readBytes (a + l₁) n) := by rw [hr, readBytes_add]
  have hctx := h.finalCtx_both hrun₂ hrun n
  have hok := h.ok_both hrun₂ hrun
  have hbuf := h.buf_both hrun₂ hrun
  rw [← hn] at hdata
  obtain hfail | ⟨hok₂, tag, htag₂⟩ : (r₂.ok = false ∨ modeTag C (finalCtx s₁ n r₂) = none)
      ∨ (r₂.ok = true ∧ ∃ tag, modeTag C (finalCtx s₁ n r₂) = some tag) := by
    rw [← Option.ne_none_iff_exists', ← Bool.not_eq_false, ← not_or]
    exact Decidable.em _
  · cases hdir : s₁.ctx.dir with
    | encrypt =>
      rw [finalDataLen_of_encrypt hdir] at hn
      subst hn
      rw [mfinal_auth_encrypt_failed hpass₂ hauth₁ hdir hr₂ hfail]
      exact .of_other_fault (by decide) (by decide)
    | decrypt =>
      rw [mfinal_auth_decrypt_failed hpass₂ hauth₁ hdir hn.symm hr₂ hfail]
      exact .of_other_fault (by decide) (by decide)
  · have htag : modeTag C (finalCtx s (l₁ + n) r) = some tag := by rw [hctx, htag₂]
    cases hdir : s₁.ctx.dir with
    | encrypt =>
      have hdir' : s.ctx.dir = .encrypt := by rwa [← h.dir_eq]
      rw [finalDataLen_of_encrypt hdir] at hn
      subst hn
      rw [mfinal_auth_encrypt hpass₂ hauth₁ hdir hr₂ hok₂ htag₂,
        mfinal_auth_encrypt hpass hauth hdir' hr (hok.trans hok₂) htag, hctx, hbuf, h.writtenTagAddr_both,
        h.taggedLen_both, h.state_both, h.phase_eq]
      exact .done l₁ _
    | decrypt =>
      have hdir' : s.ctx.dir = .decrypt := by rwa [← h.dir_eq]
      have hreceived := h.receivedTag_both hwf hkeep hpass₂ hauth hdir' (htagKeep hdir')
      rw [← hn] at hreceived
      cases hequal : fullEqual tag (s₁.buf.readBytes (receivedTagAddr s₁ (a + l₁) n) s₁.ctx.taglen) with
      | true =>
        rw [mfinal_auth_decrypt_verified hpass₂ hauth₁ hdir hn.symm hr₂ hok₂ htag₂ hequal,
          mfinal_auth_decrypt_verified hpass hauth hdir' hdata hr (hok.trans hok₂) htag (by rwa [← hreceived]), hctx, hbuf,
          h.state_both, h.phase_eq]
        exact .done l₁ _
      | false =>
        rw [mfinal_auth_decrypt_refused hpass₂ hauth₁ hdir hn.symm hr₂ hok₂ htag₂ hequal,
          mfinal_auth_decrypt_refused hpass hauth hdir' hdata hr (hok.trans hok₂) htag (by rwa [← hreceived]), h.phase_eq]
        exact .failed rfl rfl

/-! ## Unauthenticated modes -/

omit hpass₂ in
/-- The padded data of the one command is the first data and the padded rest. -/
theorem plainInput_both : plainInput C s a (l₁ + l₂) = s.buf.readBytes a l₁ ++ plainInput C s₁ (a + l₁) l₂ := by
  have hinput := h.readBytes_eq hwf hkeep
  rw [plainInput, plainInput, h.mode_eq, h.dir_eq, h.pad_eq, hinput, readBytes_add]
  split
  · next hb => exact padAdd_append _ (by rw [length_readBytes]; exact h.whole_block hb.1) _
  · rfl

omit hwf hkeep in
/-- What the one command writes is the first output and what the second command writes. -/
theorem plainOutput_both {r₂ : RunResult} (hr₂ : r₂ = run C s₁.ctx (plainInput C s₁ (a + l₁) l₂)) :
    plainOutput C s.ctx (r₁.out ++ r₂.out) = (plainOutput C s₁.ctx r₂.out).map (r₁.out ++ ·) := by
  obtain ⟨-, hfit, -⟩ := (orderedChecks_mfinal C (a + l₁) (b + l₁) l₂ s₁).none_iff.mp hpass₂
  simp only [MfinalLengthIllegal, not_or, not_and, Nat.not_lt, h.mode_eq, h.dir_eq, h.pad_eq] at hfit
  obtain ⟨-, -, hblock, -⟩ := hfit
  rw [plainOutput, plainOutput, h.mode_eq, h.dir_eq, h.pad_eq]
  split
  · next hb =>
    obtain ⟨hmode, hdec⟩ := hb
    have hlength : r₂.out.length = l₂ := by
      rw [hr₂, length_run, plainInput, h.mode_eq, h.dir_eq, if_neg (by simp [hdec]), length_readBytes]
    refine padRemove_append (by have := bs_eq C; omega) (fun hpad => ?_) _
    rw [hlength]
    exact hblock hmode hdec hpad
  · rfl

theorem mfinal_plain_both (hplain : s.ctx.mode.isAuth = false) :
    JoinedResult l₁ (mfinal C (a + l₁) (b + l₁) l₂ s₁) (mfinal C a b (l₁ + l₂) s) := by
  have hplain₁ : s₁.ctx.mode.isAuth = false := by rwa [h.mode_eq]
  have hpass := h.mfinalChecks_both hpass₂
  obtain ⟨r₂, hr₂⟩ : ∃ r₂, r₂ = run C s₁.ctx (plainInput C s₁ (a + l₁) l₂) := ⟨_, rfl⟩
  obtain ⟨r, hr⟩ : ∃ r, r = run C s.ctx (plainInput C s a (l₁ + l₂)) := ⟨_, rfl⟩
  have hrun : r = run C s.ctx (s.buf.readBytes a l₁ ++ plainInput C s₁ (a + l₁) l₂) := by
    rw [hr, h.plainInput_both hwf hkeep]
  have hctx := h.finalCtx_both hr₂ hrun l₂
  have hok := h.ok_both hr₂ hrun
  have hout : plainOutput C s.ctx r.out = (plainOutput C s₁.ctx r₂.out).map (r₁.out ++ ·) := by
    rw [h.out_both hr₂ hrun, h.plainOutput_both hpass₂ hr₂]
  cases hok₂ : r₂.ok with
  | false =>
    rw [mfinal_plain_failed hpass₂ hplain₁ hr₂ hok₂]
    exact .of_other_fault (by decide) (by decide)
  | true =>
    cases hpad : plainOutput C s₁.ctx r₂.out with
    | none =>
      rw [hpad, Option.map_none] at hout
      rw [mfinal_plain_padding hpass₂ hplain₁ hr₂ hok₂ hpad, mfinal_plain_padding hpass hplain hr (hok.trans hok₂) hout,
        h.phase_eq]
      exact .failed rfl rfl
    | some out =>
      rw [hpad, Option.map_some] at hout
      rw [mfinal_plain_done hpass₂ hplain₁ hr₂ hok₂ hpad, mfinal_plain_done hpass hplain hr (hok.trans hok₂) hout, hctx,
        h.write_both, List.length_append, h.length_out, h.state_both, h.phase_eq]
      exact .done l₁ _

omit hpass₂ in
theorem mfinal_both
    (htagKeep : s.ctx.mode.isAuth = true → s.ctx.dir = .decrypt → s.ctx.tagpl = .detached →
      ∀ x, b ≤ x → x < b + l₁ → x < s.tagaddr.toNat ∨ s.tagaddr.toNat + s.ctx.taglen ≤ x) :
    JoinedResult l₁ (mfinal C (a + l₁) (b + l₁) l₂ s₁) (mfinal C a b (l₁ + l₂) s) := by
  cases hchecks : firstFault (mfinalChecks C (a + l₁) (b + l₁) l₂ s₁) with
  | some f =>
    have hlisted := (orderedChecks_mfinal C (a + l₁) (b + l₁) l₂ s₁).mem_of_eq_some hchecks
    rw [mfinal_of_fault hchecks]
    refine .of_other_fault ?_ ?_ <;> rintro rfl <;> revert hlisted <;> decide
  | none =>
    cases hauth : s.ctx.mode.isAuth with
    | true => exact h.mfinal_auth_both hwf hkeep hchecks hauth (htagKeep hauth)
    | false => exact h.mfinal_plain_both hwf hkeep hchecks hauth

end

end FirstMproc

/-- Settles O46: Run over two pieces, and the one command's checks, output and end from those of the two. -/
theorem runIsIndependentOfTheSplit : Obligations.RunIsIndependentOfTheSplit := by
  unfold Obligations.RunIsIndependentOfTheSplit
  refine ⟨run_append, fun C s s₁ a b l₁ l₂ hwf hfirst hkeep => ?_⟩
  obtain ⟨r₁, h⟩ := firstMproc_of_mproc hfirst
  exact ⟨fun t ht => h.mproc_both hwf hkeep ht, fun htagKeep => h.mfinal_both hwf hkeep htagKeep⟩

end Sys2Proof.Proofs
end
